-- ==== Sys2Proof/Word.lean ====
section
/-! DEFINITION. The machine's words. -/

namespace Sys2Proof

/-- A register, an address or an instruction word: 32 bits (10_state.md R20, R24; 30_encoding.md R110). -/
abbrev Word := BitVec 32

/-- The unit of addressing (10_state.md R47). -/
abbrev Byte := BitVec 8

/-- A general-register or control-register number, as an instruction field holds it. -/
abbrev RegNum := BitVec 5

end Sys2Proof
end

