-- ==== Sys2Proof/Config.lean ====
section
/-! DEFINITION. What one core instance fixes (00_scope.md R5, R6) and the free values the spec leaves open
(93_implementation_defined.md U2, U3, U7). -/

namespace Sys2Proof

/-- The access kinds R, W and X of 20_memory.md R67. -/
inductive AccessKind where
  | read
  | write
  | fetch
deriving DecidableEq, Repr

/-- Which division asks for `DivCorner` (40_arithmetic_logic.md R150, R151). -/
inductive DivOp where
  | div
  | divu
deriving DecidableEq, Repr

/-- A stretch of physical addresses that the platform backs (20_memory.md R60, R87; log 6). -/
structure Region where
  base : Nat
  size : Nat
deriving DecidableEq, Repr

/-- The parameters of 00_scope.md R5 and R6, constant for a core instance (10_state.md R44).
They stand in `State` as data no step changes, so a statement about every state is a statement about
every parameter choice (log 1). -/
structure Config where
  /-- `RESET_ADDR`: value of `pc` after reset. -/
  resetAddr : Word
  /-- `EXCEPTION_ADDR`: the general exception address. -/
  exceptionAddr : Word
  /-- `FAST_TLB_MISS_ADDR`: the vector of a first-entry TLB miss. -/
  fastTlbMissAddr : Word
  /-- `MMU_PRESENT`: "MMU present or not". -/
  mmuPresent : Bool
  /-- `R0_HARDWIRED`: whether `x[0]` reads 0 and ignores writes (10_state.md R21). -/
  r0Hardwired : Bool
  /-- `PAGE_BITS`: read by the page-crossing rule of 48_engine_step.md R295(c), which alone names it (log 14). -/
  pageBits : Nat
  /-- The base-2 logarithm of `TLB_WAYS`, which R6 makes "a power of two, 1 to 16" (log 13). -/
  tlbWaysLog2 : Fin 5
  /-- The base-2 logarithm of `TLB_SETS`, which R6 makes "a power of two" (log 13). -/
  tlbSetsLog2 : Nat
  /-- `KERNEL_PHYS_BASE`: where the bypass region starts (20_memory.md R66). -/
  kernelPhysBase : Word
  /-- `KERNEL_VIRT_BASE`: descriptive only (20_memory.md R66; log 27). -/
  kernelVirtBase : Word
  /-- `ERET_BRET_PRIVILEGED` (45_system.md R278). -/
  eretBretPrivileged : Bool
  /-- `HOST_INTERCEPTS_DEBUG` (48_engine_step.md R297). -/
  hostInterceptsDebug : Bool
  /-- `BLOCK_BUDGET` less 1, since R6 makes it "any integer >= 1" (log 13). -/
  blockBudgetLess1 : Nat
  /-- Where the platform backs physical memory (20_memory.md R60, R87). -/
  backed : List Region
deriving DecidableEq, Repr

/-- The parameters of `State.reset`: the defaults of 00_scope.md R6; for what has none there, the
conventions of 95_test_vectors.md part 2 (no MMU, `EXCEPTION_ADDR` = 0x80) and part 3 (`RESET_ADDR` = 0).
DESIGN CHOICE (log 2): `FAST_TLB_MISS_ADDR`, `BLOCK_BUDGET` = 1, and all of physical space backed. -/
def Config.default : Config where
  resetAddr := 0x00000000#32
  exceptionAddr := 0x00000080#32
  fastTlbMissAddr := 0x00000100#32
  mmuPresent := false
  r0Hardwired := false
  pageBits := 12
  tlbWaysLog2 := 4
  tlbSetsLog2 := 4
  kernelPhysBase := 0xC0000000#32
  kernelVirtBase := 0x80000000#32
  eretBretPrivileged := true
  hostInterceptsDebug := false
  blockBudgetLess1 := 0
  backed := [⟨0, 2 ^ 32⟩]

/-- The parameters of the MMU vectors and of program P7 in 95_test_vectors.md. -/
def Config.withMmu : Config :=
  { Config.default with
    resetAddr := 0xC0000000#32
    exceptionAddr := 0xC0000020#32
    fastTlbMissAddr := 0xC0000100#32
    mmuPresent := true }

/-- `TLB_WAYS`: number of ways. -/
def Config.tlbWays (c : Config) : Nat := 2 ^ c.tlbWaysLog2.val

/-- `TLB_SETS`: number of sets, which is the entries per way. -/
def Config.tlbSets (c : Config) : Nat := 2 ^ c.tlbSetsLog2

/-- `BLOCK_BUDGET`: the most instructions of a block (48_engine_step.md R295(d)). -/
def Config.blockBudget (c : Config) : Nat := c.blockBudgetLess1 + 1

/-- How many entries the TLB has (10_state.md R41; "When `MMU_PRESENT` is false there is no TLB"). -/
def Config.tlbSize (c : Config) : Nat :=
  if c.mmuPresent then c.tlbWays * c.tlbSets else 0

/-- FREE VALUE (U2, log 7): `DivCorner(op, x[A], x[B])`, the result of a division whose divisor is zero and
of -2^31 / -1. A total function of which nothing is assumed. -/
opaque Config.divCorner : DivOp → Word → Word → Word

/-- FREE VALUE (U3, log 8): which of several matching TLB ways a translation uses. The first argument is
`State.draws`; the result counts into the matching ways. -/
opaque Config.freeWay : Nat → AccessKind → Nat

/-- FREE VALUE (U7, log 9): whether an asserted interrupt is delivered at an instruction boundary that is
no block boundary. The argument is `State.draws`. -/
opaque Config.freeSample : Nat → Bool

end Sys2Proof
end

