-- ==== Sys2Proof/Syntax.lean ====
section
/-! DEFINITION. The instruction set: one constructor per row of spec/opcode_table.json. -/

namespace Sys2Proof

/-- An instruction with the operands its assembler syntax gives it (30_encoding.md R124), each in the width of
its field (R111, R112, R113). Fields that neither the syntax nor the meaning uses are not operands (R120; log 20).
Destination first, as the syntax writes it; `imm16` of a load or store is the displacement. -/
inductive Instr where
  -- Arithmetic and logic (40_arithmetic_logic.md)
  /-- `add`: rule R142. -/
  | add (rc : RegNum) (ra : RegNum) (rb : RegNum)
  /-- `addi`: rule R143. -/
  | addi (rb : RegNum) (ra : RegNum) (imm16 : BitVec 16)
  /-- `sub`: rule R144. -/
  | sub (rc : RegNum) (ra : RegNum) (rb : RegNum)
  /-- `mul`: rule R145. -/
  | mul (rc : RegNum) (ra : RegNum) (rb : RegNum)
  /-- `muli`: rule R146. -/
  | muli (rb : RegNum) (ra : RegNum) (imm16 : BitVec 16)
  /-- `mulxss`: rule R147. -/
  | mulxss (rc : RegNum) (ra : RegNum) (rb : RegNum)
  /-- `mulxsu`: rule R148. -/
  | mulxsu (rc : RegNum) (ra : RegNum) (rb : RegNum)
  /-- `mulxuu`: rule R149. -/
  | mulxuu (rc : RegNum) (ra : RegNum) (rb : RegNum)
  /-- `div`: rule R150. -/
  | div (rc : RegNum) (ra : RegNum) (rb : RegNum)
  /-- `divu`: rule R151. -/
  | divu (rc : RegNum) (ra : RegNum) (rb : RegNum)
  /-- `and`: rule R152. -/
  | and (rc : RegNum) (ra : RegNum) (rb : RegNum)
  /-- `andi`: rule R153. -/
  | andi (rb : RegNum) (ra : RegNum) (imm16 : BitVec 16)
  /-- `andhi`: rule R154. -/
  | andhi (rb : RegNum) (ra : RegNum) (imm16 : BitVec 16)
  /-- `or`: rule R155. -/
  | or (rc : RegNum) (ra : RegNum) (rb : RegNum)
  /-- `ori`: rule R156. -/
  | ori (rb : RegNum) (ra : RegNum) (imm16 : BitVec 16)
  /-- `orhi`: rule R157. -/
  | orhi (rb : RegNum) (ra : RegNum) (imm16 : BitVec 16)
  /-- `xor`: rule R158. -/
  | xor (rc : RegNum) (ra : RegNum) (rb : RegNum)
  /-- `xori`: rule R159. -/
  | xori (rb : RegNum) (ra : RegNum) (imm16 : BitVec 16)
  /-- `xorhi`: rule R160. -/
  | xorhi (rb : RegNum) (ra : RegNum) (imm16 : BitVec 16)
  /-- `nor`: rule R161. -/
  | nor (rc : RegNum) (ra : RegNum) (rb : RegNum)
  -- Comparison (41_compare.md)
  /-- `cmpeq`: rule R171. -/
  | cmpeq (rc : RegNum) (ra : RegNum) (rb : RegNum)
  /-- `cmpne`: rule R172. -/
  | cmpne (rc : RegNum) (ra : RegNum) (rb : RegNum)
  /-- `cmpge`: rule R173. -/
  | cmpge (rc : RegNum) (ra : RegNum) (rb : RegNum)
  /-- `cmpgeu`: rule R174. -/
  | cmpgeu (rc : RegNum) (ra : RegNum) (rb : RegNum)
  /-- `cmplt`: rule R175. -/
  | cmplt (rc : RegNum) (ra : RegNum) (rb : RegNum)
  /-- `cmpltu`: rule R176. -/
  | cmpltu (rc : RegNum) (ra : RegNum) (rb : RegNum)
  /-- `cmpeqi`: rule R177. -/
  | cmpeqi (rb : RegNum) (ra : RegNum) (imm16 : BitVec 16)
  /-- `cmpnei`: rule R178. -/
  | cmpnei (rb : RegNum) (ra : RegNum) (imm16 : BitVec 16)
  /-- `cmpgei`: rule R179. -/
  | cmpgei (rb : RegNum) (ra : RegNum) (imm16 : BitVec 16)
  /-- `cmpgeui`: rule R180. -/
  | cmpgeui (rb : RegNum) (ra : RegNum) (imm16 : BitVec 16)
  /-- `cmplti`: rule R181. -/
  | cmplti (rb : RegNum) (ra : RegNum) (imm16 : BitVec 16)
  /-- `cmpltui`: rule R182. -/
  | cmpltui (rb : RegNum) (ra : RegNum) (imm16 : BitVec 16)
  -- Shift and rotate (42_shift_rotate.md)
  /-- `sll`: rule R191. -/
  | sll (rc : RegNum) (ra : RegNum) (rb : RegNum)
  /-- `slli`: rule R192. -/
  | slli (rc : RegNum) (ra : RegNum) (imm5 : BitVec 5)
  /-- `srl`: rule R193. -/
  | srl (rc : RegNum) (ra : RegNum) (rb : RegNum)
  /-- `srli`: rule R194. -/
  | srli (rc : RegNum) (ra : RegNum) (imm5 : BitVec 5)
  /-- `sra`: rule R195. -/
  | sra (rc : RegNum) (ra : RegNum) (rb : RegNum)
  /-- `srai`: rule R196. -/
  | srai (rc : RegNum) (ra : RegNum) (imm5 : BitVec 5)
  /-- `rol`: rule R197. -/
  | rol (rc : RegNum) (ra : RegNum) (rb : RegNum)
  /-- `roli`: rule R198. -/
  | roli (rc : RegNum) (ra : RegNum) (imm5 : BitVec 5)
  /-- `ror`: rule R199. -/
  | ror (rc : RegNum) (ra : RegNum) (rb : RegNum)
  -- Load and store (43_load_store.md)
  /-- `ldb`: rule R208. -/
  | ldb (rb : RegNum) (ra : RegNum) (imm16 : BitVec 16)
  /-- `ldbu`: rule R209. -/
  | ldbu (rb : RegNum) (ra : RegNum) (imm16 : BitVec 16)
  /-- `ldh`: rule R210. -/
  | ldh (rb : RegNum) (ra : RegNum) (imm16 : BitVec 16)
  /-- `ldhu`: rule R211. -/
  | ldhu (rb : RegNum) (ra : RegNum) (imm16 : BitVec 16)
  /-- `ldw`: rule R212. -/
  | ldw (rb : RegNum) (ra : RegNum) (imm16 : BitVec 16)
  /-- `ldbio`: rule R213. -/
  | ldbio (rb : RegNum) (ra : RegNum) (imm16 : BitVec 16)
  /-- `ldbuio`: rule R214. -/
  | ldbuio (rb : RegNum) (ra : RegNum) (imm16 : BitVec 16)
  /-- `ldhio`: rule R215. -/
  | ldhio (rb : RegNum) (ra : RegNum) (imm16 : BitVec 16)
  /-- `ldhuio`: rule R216. -/
  | ldhuio (rb : RegNum) (ra : RegNum) (imm16 : BitVec 16)
  /-- `ldwio`: rule R217. -/
  | ldwio (rb : RegNum) (ra : RegNum) (imm16 : BitVec 16)
  /-- `stb`: rule R218. -/
  | stb (rb : RegNum) (ra : RegNum) (imm16 : BitVec 16)
  /-- `sth`: rule R219. -/
  | sth (rb : RegNum) (ra : RegNum) (imm16 : BitVec 16)
  /-- `stw`: rule R220. -/
  | stw (rb : RegNum) (ra : RegNum) (imm16 : BitVec 16)
  /-- `stbio`: rule R221. -/
  | stbio (rb : RegNum) (ra : RegNum) (imm16 : BitVec 16)
  /-- `sthio`: rule R222. -/
  | sthio (rb : RegNum) (ra : RegNum) (imm16 : BitVec 16)
  /-- `stwio`: rule R223. -/
  | stwio (rb : RegNum) (ra : RegNum) (imm16 : BitVec 16)
  -- Control transfer (44_control_transfer.md)
  /-- `br`: rule R239. -/
  | br (imm16 : BitVec 16)
  /-- `beq`: rule R240. -/
  | beq (ra : RegNum) (rb : RegNum) (imm16 : BitVec 16)
  /-- `bne`: rule R241. -/
  | bne (ra : RegNum) (rb : RegNum) (imm16 : BitVec 16)
  /-- `bge`: rule R242. -/
  | bge (ra : RegNum) (rb : RegNum) (imm16 : BitVec 16)
  /-- `bgeu`: rule R243. -/
  | bgeu (ra : RegNum) (rb : RegNum) (imm16 : BitVec 16)
  /-- `blt`: rule R244. -/
  | blt (ra : RegNum) (rb : RegNum) (imm16 : BitVec 16)
  /-- `bltu`: rule R245. -/
  | bltu (ra : RegNum) (rb : RegNum) (imm16 : BitVec 16)
  /-- `call`: rule R246. -/
  | call (imm26 : BitVec 26)
  /-- `jmpi`: rule R247. -/
  | jmpi (imm26 : BitVec 26)
  /-- `callr`: rule R248. -/
  | callr (ra : RegNum)
  /-- `jmp`: rule R249. -/
  | jmp (ra : RegNum)
  /-- `ret`: rule R250. -/
  | ret
  /-- `nextpc`: rule R251. -/
  | nextpc (rc : RegNum)
  -- System (45_system.md)
  /-- `trap`: rule R261. -/
  | trap (imm5 : BitVec 5)
  /-- `break`: rule R262. -/
  | brk (imm5 : BitVec 5)
  /-- `bret`: rule R263. -/
  | bret
  /-- `eret`: rule R266. -/
  | eret
  /-- `rdctl`: rule R264. -/
  | rdctl (rc : RegNum) (n : RegNum)
  /-- `wrctl`: rule R265. -/
  | wrctl (n : RegNum) (ra : RegNum)
  /-- `sync`: rule R267. -/
  | sync
  /-- `flushd`: rule R268. -/
  | flushd (ra : RegNum) (imm16 : BitVec 16)
  /-- `flushda`: rule R269. -/
  | flushda (ra : RegNum) (imm16 : BitVec 16)
  /-- `flushi`: rule R270. -/
  | flushi (ra : RegNum)
  /-- `flushp`: rule R271. -/
  | flushp
  /-- `initd`: rule R272. -/
  | initd (ra : RegNum) (imm16 : BitVec 16)
  /-- `initda`: rule R273. -/
  | initda (ra : RegNum) (imm16 : BitVec 16)
  /-- `initi`: rule R274. -/
  | initi (ra : RegNum)
  -- The unimplemented slots (30_encoding.md R119)
  /-- `custom`: rule R275. -/
  | custom (payload : BitVec 26)
  /-- `rdprs`: rule R276. -/
  | rdprs (rb : RegNum) (ra : RegNum) (imm16 : BitVec 16)
  /-- `wrprs`: rule R277. -/
  | wrprs (rc : RegNum) (ra : RegNum)
deriving DecidableEq, Repr

end Sys2Proof
end

