-- ==== Sys2Proof/Decode.lean ====
section
/-! DEFINITION. From bits to instructions and back (30_encoding.md). -/

namespace Sys2Proof

/-! ### Fields of a word (30_encoding.md R111, R112, R113) -/

/-- `OP = w[5:0]`. -/
def fieldOp (w : Word) : BitVec 6 := w.extractLsb' 0 6
/-- `A = w[31:27]`. -/
def fieldA (w : Word) : RegNum := w.extractLsb' 27 5
/-- `B = w[26:22]`. -/
def fieldB (w : Word) : RegNum := w.extractLsb' 22 5
/-- `C = w[21:17]`. -/
def fieldC (w : Word) : RegNum := w.extractLsb' 17 5
/-- `OPX = w[16:11]`. -/
def fieldOpx (w : Word) : BitVec 6 := w.extractLsb' 11 6
/-- `IMM5 = w[10:6]`. -/
def fieldImm5 (w : Word) : BitVec 5 := w.extractLsb' 6 5
/-- `IMM16 = w[21:6]`. -/
def fieldImm16 (w : Word) : BitVec 16 := w.extractLsb' 6 16
/-- `IMM26 = w[31:6]`. -/
def fieldImm26 (w : Word) : BitVec 26 := w.extractLsb' 6 26

/-! ### Decoding -/

/-- Why a word is no instruction (30_encoding.md R118). -/
inductive Illegal where
  /-- An unknown primary opcode. -/
  | primaryOpcode (op : BitVec 6)
  /-- An unknown sub-opcode of the register form. -/
  | subOpcode (opx : BitVec 6)
deriving DecidableEq, Repr

/-- The three outcomes of decode (30_encoding.md R115); each carries what the Engine needs of it. -/
inductive Decoded where
  | valid (i : Instr)
  | unimplemented (i : Instr)
  | illegal (why : Illegal)
deriving DecidableEq, Repr

/-- The instruction a word holds, implemented or not. -/
def Decoded.instr? (d : Decoded) : Option Instr :=
  match d with
  | .valid i => some i
  | .unimplemented i => some i
  | .illegal _ => none

/-- The secondary table, indexed by `OPX` (30_encoding.md R117). -/
def decodeRegisterForm (w : Word) : Decoded :=
  match (fieldOpx w).toNat with
  | 0x01 => .valid .eret
  | 0x02 => .valid (.roli (fieldC w) (fieldA w) (fieldImm5 w))
  | 0x03 => .valid (.rol (fieldC w) (fieldA w) (fieldB w))
  | 0x04 => .valid .flushp
  | 0x05 => .valid .ret
  | 0x06 => .valid (.nor (fieldC w) (fieldA w) (fieldB w))
  | 0x07 => .valid (.mulxuu (fieldC w) (fieldA w) (fieldB w))
  | 0x08 => .valid (.cmpge (fieldC w) (fieldA w) (fieldB w))
  | 0x09 => .valid .bret
  | 0x0B => .valid (.ror (fieldC w) (fieldA w) (fieldB w))
  | 0x0C => .valid (.flushi (fieldA w))
  | 0x0D => .valid (.jmp (fieldA w))
  | 0x0E => .valid (.and (fieldC w) (fieldA w) (fieldB w))
  | 0x10 => .valid (.cmplt (fieldC w) (fieldA w) (fieldB w))
  | 0x12 => .valid (.slli (fieldC w) (fieldA w) (fieldImm5 w))
  | 0x13 => .valid (.sll (fieldC w) (fieldA w) (fieldB w))
  | 0x14 => .unimplemented (.wrprs (fieldC w) (fieldA w))
  | 0x16 => .valid (.or (fieldC w) (fieldA w) (fieldB w))
  | 0x17 => .valid (.mulxsu (fieldC w) (fieldA w) (fieldB w))
  | 0x18 => .valid (.cmpne (fieldC w) (fieldA w) (fieldB w))
  | 0x1A => .valid (.srli (fieldC w) (fieldA w) (fieldImm5 w))
  | 0x1B => .valid (.srl (fieldC w) (fieldA w) (fieldB w))
  | 0x1C => .valid (.nextpc (fieldC w))
  | 0x1D => .valid (.callr (fieldA w))
  | 0x1E => .valid (.xor (fieldC w) (fieldA w) (fieldB w))
  | 0x1F => .valid (.mulxss (fieldC w) (fieldA w) (fieldB w))
  | 0x20 => .valid (.cmpeq (fieldC w) (fieldA w) (fieldB w))
  | 0x24 => .valid (.divu (fieldC w) (fieldA w) (fieldB w))
  | 0x25 => .valid (.div (fieldC w) (fieldA w) (fieldB w))
  | 0x26 => .valid (.rdctl (fieldC w) (fieldImm5 w))
  | 0x27 => .valid (.mul (fieldC w) (fieldA w) (fieldB w))
  | 0x28 => .valid (.cmpgeu (fieldC w) (fieldA w) (fieldB w))
  | 0x29 => .valid (.initi (fieldA w))
  | 0x2D => .valid (.trap (fieldImm5 w))
  | 0x2E => .valid (.wrctl (fieldImm5 w) (fieldA w))
  | 0x30 => .valid (.cmpltu (fieldC w) (fieldA w) (fieldB w))
  | 0x31 => .valid (.add (fieldC w) (fieldA w) (fieldB w))
  | 0x34 => .valid (.brk (fieldImm5 w))
  | 0x36 => .valid .sync
  | 0x39 => .valid (.sub (fieldC w) (fieldA w) (fieldB w))
  | 0x3A => .valid (.srai (fieldC w) (fieldA w) (fieldImm5 w))
  | 0x3B => .valid (.sra (fieldC w) (fieldA w) (fieldB w))
  | _ => .illegal (.subOpcode (fieldOpx w))

/-- Decode of a word: the primary table, indexed by `OP`, and the secondary table behind 0x3A
(30_encoding.md R115, R116). It depends on the word alone (R122) and ignores unused fields (R120). -/
def decode (w : Word) : Decoded :=
  match (fieldOp w).toNat with
  | 0x00 => .valid (.call (fieldImm26 w))
  | 0x01 => .valid (.jmpi (fieldImm26 w))
  | 0x03 => .valid (.ldbu (fieldB w) (fieldA w) (fieldImm16 w))
  | 0x04 => .valid (.addi (fieldB w) (fieldA w) (fieldImm16 w))
  | 0x05 => .valid (.stb (fieldB w) (fieldA w) (fieldImm16 w))
  | 0x06 => .valid (.br (fieldImm16 w))
  | 0x07 => .valid (.ldb (fieldB w) (fieldA w) (fieldImm16 w))
  | 0x08 => .valid (.cmpgei (fieldB w) (fieldA w) (fieldImm16 w))
  | 0x0B => .valid (.ldhu (fieldB w) (fieldA w) (fieldImm16 w))
  | 0x0C => .valid (.andi (fieldB w) (fieldA w) (fieldImm16 w))
  | 0x0D => .valid (.sth (fieldB w) (fieldA w) (fieldImm16 w))
  | 0x0E => .valid (.bge (fieldA w) (fieldB w) (fieldImm16 w))
  | 0x0F => .valid (.ldh (fieldB w) (fieldA w) (fieldImm16 w))
  | 0x10 => .valid (.cmplti (fieldB w) (fieldA w) (fieldImm16 w))
  | 0x13 => .valid (.initda (fieldA w) (fieldImm16 w))
  | 0x14 => .valid (.ori (fieldB w) (fieldA w) (fieldImm16 w))
  | 0x15 => .valid (.stw (fieldB w) (fieldA w) (fieldImm16 w))
  | 0x16 => .valid (.blt (fieldA w) (fieldB w) (fieldImm16 w))
  | 0x17 => .valid (.ldw (fieldB w) (fieldA w) (fieldImm16 w))
  | 0x18 => .valid (.cmpnei (fieldB w) (fieldA w) (fieldImm16 w))
  | 0x1B => .valid (.flushda (fieldA w) (fieldImm16 w))
  | 0x1C => .valid (.xori (fieldB w) (fieldA w) (fieldImm16 w))
  | 0x1E => .valid (.bne (fieldA w) (fieldB w) (fieldImm16 w))
  | 0x20 => .valid (.cmpeqi (fieldB w) (fieldA w) (fieldImm16 w))
  | 0x23 => .valid (.ldbuio (fieldB w) (fieldA w) (fieldImm16 w))
  | 0x24 => .valid (.muli (fieldB w) (fieldA w) (fieldImm16 w))
  | 0x25 => .valid (.stbio (fieldB w) (fieldA w) (fieldImm16 w))
  | 0x26 => .valid (.beq (fieldA w) (fieldB w) (fieldImm16 w))
  | 0x27 => .valid (.ldbio (fieldB w) (fieldA w) (fieldImm16 w))
  | 0x28 => .valid (.cmpgeui (fieldB w) (fieldA w) (fieldImm16 w))
  | 0x2B => .valid (.ldhuio (fieldB w) (fieldA w) (fieldImm16 w))
  | 0x2C => .valid (.andhi (fieldB w) (fieldA w) (fieldImm16 w))
  | 0x2D => .valid (.sthio (fieldB w) (fieldA w) (fieldImm16 w))
  | 0x2E => .valid (.bgeu (fieldA w) (fieldB w) (fieldImm16 w))
  | 0x2F => .valid (.ldhio (fieldB w) (fieldA w) (fieldImm16 w))
  | 0x30 => .valid (.cmpltui (fieldB w) (fieldA w) (fieldImm16 w))
  | 0x32 => .unimplemented (.custom (fieldImm26 w))
  | 0x33 => .valid (.initd (fieldA w) (fieldImm16 w))
  | 0x34 => .valid (.orhi (fieldB w) (fieldA w) (fieldImm16 w))
  | 0x35 => .valid (.stwio (fieldB w) (fieldA w) (fieldImm16 w))
  | 0x36 => .valid (.bltu (fieldA w) (fieldB w) (fieldImm16 w))
  | 0x37 => .valid (.ldwio (fieldB w) (fieldA w) (fieldImm16 w))
  | 0x38 => .unimplemented (.rdprs (fieldB w) (fieldA w) (fieldImm16 w))
  | 0x3A => decodeRegisterForm w
  | 0x3B => .valid (.flushd (fieldA w) (fieldImm16 w))
  | 0x3C => .valid (.xorhi (fieldB w) (fieldA w) (fieldImm16 w))
  | _ => .illegal (.primaryOpcode (fieldOp w))

/-! ### Bytes -/

/-- The little-endian word of four bytes, the first at the lowest address (20_memory.md R61). -/
def wordOfBytes (b0 b1 b2 b3 : Byte) : Word := b3 ++ b2 ++ b1 ++ b0

/-- Byte `k` of a word as memory stores it: `b[k] = v[8k+7:8k]` (20_memory.md R61). -/
def byteOfWord (v : Word) (k : Nat) : Byte := v.extractLsb' (8 * k) 8

/-- What a list of bytes decodes to. -/
inductive DecodedBytes where
  /-- Four bytes were there: their decode, and the bytes after them. -/
  | word (d : Decoded) (rest : List Byte)
  /-- Fewer than four bytes: no instruction word (30_encoding.md R110). -/
  | tooShort (n : Nat)
deriving DecidableEq, Repr

/-- Decode of the first instruction in a list of bytes: total, and each rejection has a name. -/
def decodeBytes (bs : List Byte) : DecodedBytes :=
  match bs with
  | b0 :: b1 :: b2 :: b3 :: rest => .word (decode (wordOfBytes b0 b1 b2 b3)) rest
  | short => .tooShort short.length

/-- The word that the opcode table numbers `w` with `nbits` bits: bits above `nbits` are 0. -/
def tableWord (nbits w : Nat) : Word := BitVec.ofNat 32 (w % 2 ^ nbits)

/-- The instruction the decoder reads from the bytes of a table word, laid out little-endian. -/
def decodeTableWord (nbits w : Nat) : Option Instr :=
  let v := tableWord nbits w
  match decodeBytes [byteOfWord v 0, byteOfWord v 1, byteOfWord v 2, byteOfWord v 3] with
  | .word d _ => d.instr?
  | .tooShort _ => none

/-! ### Encoding (30_encoding.md R111, R112, R113, R123) -/

/-- I-type: A, B, IMM16, OP from the most significant end. -/
def encodeI (op : BitVec 6) (a b : RegNum) (imm16 : BitVec 16) : Word := a ++ b ++ imm16 ++ op

/-- R-type: A, B, C, OPX, IMM5, OP = 0x3A. -/
def encodeR (opx : BitVec 6) (a b c : RegNum) (imm5 : BitVec 5) : Word := a ++ b ++ c ++ opx ++ imm5 ++ 0x3A#6

/-- J-type: IMM26, OP. -/
def encodeJ (op : BitVec 6) (imm26 : BitVec 26) : Word := imm26 ++ op

/-- The canonical word of an instruction. Unused fields hold what an assembler puts there (30_encoding.md R125):
zero, but for A of `ret`, A and B of `eret`, A of `bret`, and C of `trap`, `break` and `callr`. -/
def encode (i : Instr) : Word :=
  match i with
  | .add rc ra rb => encodeR 0x31#6 ra rb rc 0#5
  | .addi rb ra imm16 => encodeI 0x04#6 ra rb imm16
  | .sub rc ra rb => encodeR 0x39#6 ra rb rc 0#5
  | .mul rc ra rb => encodeR 0x27#6 ra rb rc 0#5
  | .muli rb ra imm16 => encodeI 0x24#6 ra rb imm16
  | .mulxss rc ra rb => encodeR 0x1F#6 ra rb rc 0#5
  | .mulxsu rc ra rb => encodeR 0x17#6 ra rb rc 0#5
  | .mulxuu rc ra rb => encodeR 0x07#6 ra rb rc 0#5
  | .div rc ra rb => encodeR 0x25#6 ra rb rc 0#5
  | .divu rc ra rb => encodeR 0x24#6 ra rb rc 0#5
  | .and rc ra rb => encodeR 0x0E#6 ra rb rc 0#5
  | .andi rb ra imm16 => encodeI 0x0C#6 ra rb imm16
  | .andhi rb ra imm16 => encodeI 0x2C#6 ra rb imm16
  | .or rc ra rb => encodeR 0x16#6 ra rb rc 0#5
  | .ori rb ra imm16 => encodeI 0x14#6 ra rb imm16
  | .orhi rb ra imm16 => encodeI 0x34#6 ra rb imm16
  | .xor rc ra rb => encodeR 0x1E#6 ra rb rc 0#5
  | .xori rb ra imm16 => encodeI 0x1C#6 ra rb imm16
  | .xorhi rb ra imm16 => encodeI 0x3C#6 ra rb imm16
  | .nor rc ra rb => encodeR 0x06#6 ra rb rc 0#5
  | .cmpeq rc ra rb => encodeR 0x20#6 ra rb rc 0#5
  | .cmpne rc ra rb => encodeR 0x18#6 ra rb rc 0#5
  | .cmpge rc ra rb => encodeR 0x08#6 ra rb rc 0#5
  | .cmpgeu rc ra rb => encodeR 0x28#6 ra rb rc 0#5
  | .cmplt rc ra rb => encodeR 0x10#6 ra rb rc 0#5
  | .cmpltu rc ra rb => encodeR 0x30#6 ra rb rc 0#5
  | .cmpeqi rb ra imm16 => encodeI 0x20#6 ra rb imm16
  | .cmpnei rb ra imm16 => encodeI 0x18#6 ra rb imm16
  | .cmpgei rb ra imm16 => encodeI 0x08#6 ra rb imm16
  | .cmpgeui rb ra imm16 => encodeI 0x28#6 ra rb imm16
  | .cmplti rb ra imm16 => encodeI 0x10#6 ra rb imm16
  | .cmpltui rb ra imm16 => encodeI 0x30#6 ra rb imm16
  | .sll rc ra rb => encodeR 0x13#6 ra rb rc 0#5
  | .slli rc ra imm5 => encodeR 0x12#6 ra 0#5 rc imm5
  | .srl rc ra rb => encodeR 0x1B#6 ra rb rc 0#5
  | .srli rc ra imm5 => encodeR 0x1A#6 ra 0#5 rc imm5
  | .sra rc ra rb => encodeR 0x3B#6 ra rb rc 0#5
  | .srai rc ra imm5 => encodeR 0x3A#6 ra 0#5 rc imm5
  | .rol rc ra rb => encodeR 0x03#6 ra rb rc 0#5
  | .roli rc ra imm5 => encodeR 0x02#6 ra 0#5 rc imm5
  | .ror rc ra rb => encodeR 0x0B#6 ra rb rc 0#5
  | .ldb rb ra imm16 => encodeI 0x07#6 ra rb imm16
  | .ldbu rb ra imm16 => encodeI 0x03#6 ra rb imm16
  | .ldh rb ra imm16 => encodeI 0x0F#6 ra rb imm16
  | .ldhu rb ra imm16 => encodeI 0x0B#6 ra rb imm16
  | .ldw rb ra imm16 => encodeI 0x17#6 ra rb imm16
  | .ldbio rb ra imm16 => encodeI 0x27#6 ra rb imm16
  | .ldbuio rb ra imm16 => encodeI 0x23#6 ra rb imm16
  | .ldhio rb ra imm16 => encodeI 0x2F#6 ra rb imm16
  | .ldhuio rb ra imm16 => encodeI 0x2B#6 ra rb imm16
  | .ldwio rb ra imm16 => encodeI 0x37#6 ra rb imm16
  | .stb rb ra imm16 => encodeI 0x05#6 ra rb imm16
  | .sth rb ra imm16 => encodeI 0x0D#6 ra rb imm16
  | .stw rb ra imm16 => encodeI 0x15#6 ra rb imm16
  | .stbio rb ra imm16 => encodeI 0x25#6 ra rb imm16
  | .sthio rb ra imm16 => encodeI 0x2D#6 ra rb imm16
  | .stwio rb ra imm16 => encodeI 0x35#6 ra rb imm16
  | .br imm16 => encodeI 0x06#6 0#5 0#5 imm16
  | .beq ra rb imm16 => encodeI 0x26#6 ra rb imm16
  | .bne ra rb imm16 => encodeI 0x1E#6 ra rb imm16
  | .bge ra rb imm16 => encodeI 0x0E#6 ra rb imm16
  | .bgeu ra rb imm16 => encodeI 0x2E#6 ra rb imm16
  | .blt ra rb imm16 => encodeI 0x16#6 ra rb imm16
  | .bltu ra rb imm16 => encodeI 0x36#6 ra rb imm16
  | .call imm26 => encodeJ 0x00#6 imm26
  | .jmpi imm26 => encodeJ 0x01#6 imm26
  | .callr ra => encodeR 0x1D#6 ra 0#5 31#5 0#5
  | .jmp ra => encodeR 0x0D#6 ra 0#5 0#5 0#5
  | .ret => encodeR 0x05#6 31#5 0#5 0#5 0#5
  | .nextpc rc => encodeR 0x1C#6 0#5 0#5 rc 0#5
  | .trap imm5 => encodeR 0x2D#6 0#5 0#5 29#5 imm5
  | .brk imm5 => encodeR 0x34#6 0#5 0#5 30#5 imm5
  | .bret => encodeR 0x09#6 30#5 0#5 0#5 0#5
  | .eret => encodeR 0x01#6 29#5 30#5 0#5 0#5
  | .rdctl rc n => encodeR 0x26#6 0#5 0#5 rc n
  | .wrctl n ra => encodeR 0x2E#6 ra 0#5 0#5 n
  | .sync => encodeR 0x36#6 0#5 0#5 0#5 0#5
  | .flushd ra imm16 => encodeI 0x3B#6 ra 0#5 imm16
  | .flushda ra imm16 => encodeI 0x1B#6 ra 0#5 imm16
  | .flushi ra => encodeR 0x0C#6 ra 0#5 0#5 0#5
  | .flushp => encodeR 0x04#6 0#5 0#5 0#5 0#5
  | .initd ra imm16 => encodeI 0x33#6 ra 0#5 imm16
  | .initda ra imm16 => encodeI 0x13#6 ra 0#5 imm16
  | .initi ra => encodeR 0x29#6 ra 0#5 0#5 0#5
  | .custom payload => encodeJ 0x32#6 payload
  | .rdprs rb ra imm16 => encodeI 0x38#6 ra rb imm16
  | .wrprs rc ra => encodeR 0x14#6 ra 0#5 rc 0#5

/-- Whether a row of the table is an unimplemented slot (30_encoding.md R119). -/
def Instr.isUnimplemented (i : Instr) : Bool :=
  match i with
  | .custom _ => true
  | .rdprs _ _ _ => true
  | .wrprs _ _ => true
  | .add _ _ _ => false
  | .addi _ _ _ => false
  | .sub _ _ _ => false
  | .mul _ _ _ => false
  | .muli _ _ _ => false
  | .mulxss _ _ _ => false
  | .mulxsu _ _ _ => false
  | .mulxuu _ _ _ => false
  | .div _ _ _ => false
  | .divu _ _ _ => false
  | .and _ _ _ => false
  | .andi _ _ _ => false
  | .andhi _ _ _ => false
  | .or _ _ _ => false
  | .ori _ _ _ => false
  | .orhi _ _ _ => false
  | .xor _ _ _ => false
  | .xori _ _ _ => false
  | .xorhi _ _ _ => false
  | .nor _ _ _ => false
  | .cmpeq _ _ _ => false
  | .cmpne _ _ _ => false
  | .cmpge _ _ _ => false
  | .cmpgeu _ _ _ => false
  | .cmplt _ _ _ => false
  | .cmpltu _ _ _ => false
  | .cmpeqi _ _ _ => false
  | .cmpnei _ _ _ => false
  | .cmpgei _ _ _ => false
  | .cmpgeui _ _ _ => false
  | .cmplti _ _ _ => false
  | .cmpltui _ _ _ => false
  | .sll _ _ _ => false
  | .slli _ _ _ => false
  | .srl _ _ _ => false
  | .srli _ _ _ => false
  | .sra _ _ _ => false
  | .srai _ _ _ => false
  | .rol _ _ _ => false
  | .roli _ _ _ => false
  | .ror _ _ _ => false
  | .ldb _ _ _ => false
  | .ldbu _ _ _ => false
  | .ldh _ _ _ => false
  | .ldhu _ _ _ => false
  | .ldw _ _ _ => false
  | .ldbio _ _ _ => false
  | .ldbuio _ _ _ => false
  | .ldhio _ _ _ => false
  | .ldhuio _ _ _ => false
  | .ldwio _ _ _ => false
  | .stb _ _ _ => false
  | .sth _ _ _ => false
  | .stw _ _ _ => false
  | .stbio _ _ _ => false
  | .sthio _ _ _ => false
  | .stwio _ _ _ => false
  | .br _ => false
  | .beq _ _ _ => false
  | .bne _ _ _ => false
  | .bge _ _ _ => false
  | .bgeu _ _ _ => false
  | .blt _ _ _ => false
  | .bltu _ _ _ => false
  | .call _ => false
  | .jmpi _ => false
  | .callr _ => false
  | .jmp _ => false
  | .ret => false
  | .nextpc _ => false
  | .trap _ => false
  | .brk _ => false
  | .bret => false
  | .eret => false
  | .rdctl _ _ => false
  | .wrctl _ _ => false
  | .sync => false
  | .flushd _ _ => false
  | .flushda _ _ => false
  | .flushi _ => false
  | .flushp => false
  | .initd _ _ => false
  | .initda _ _ => false
  | .initi _ => false

end Sys2Proof
end

