-- ==== Sys2Proof/Machine/State.lean ====
section
/-! DEFINITION. The state of the machine as plain data, its reasons to stop, and reset. -/

namespace Sys2Proof.Machine

/-- A TLB entry (10_state.md R41). Its way and set are its place in `State.tlb`. -/
structure TlbEntry where
  vpn : BitVec 20
  pid : BitVec 14
  pfn : BitVec 20
  r : Bool
  w : Bool
  x : Bool
  /-- Cacheable: stored, no effect. -/
  c : Bool
  /-- Global: matches any process id. -/
  g : Bool
deriving DecidableEq, Repr

/-- Physical memory as (address, byte) pairs, addresses strictly rising, no entry equal to what an unlisted
address reads as (10_state.md R47; log 5). `Memory.wf` in Machine/Ops.lean is this form. -/
abbrev Memory := List Host.Cell

/-- Why a run of the core came back to the host (48_engine_step.md R300). -/
inductive ReturnReason where
  /-- "exited normally at budget": the host's budget ran out. Only `runUntil` and `singleStep` give it. -/
  | exitedAtBudget
  /-- "hit breakpoint" (48_engine_step.md R297). -/
  | hitBreakpoint
  /-- "faulted": not an architectural event, and the model never gives it (D49, U19; log 15). -/
  | faulted
  /-- "halted by request": the stop flag was seen at a block boundary. -/
  | haltedByRequest
deriving DecidableEq, Repr

/-- Whether a run of the core is in progress (48_engine_step.md R300, R302; log 15). Outside a run the core is stopped, and
the next step begins a run. -/
inductive RunStatus where
  /-- No run since reset. -/
  | notStarted
  /-- A run is in progress: the core stands between two of its steps. -/
  | running
  /-- The last run came back to the host. -/
  | returned (why : ReturnReason)
deriving DecidableEq, Repr

/-- Everything the spec gives the machine (10_state.md R20 to R50), the host's inputs (R45), where in its block the
Engine stands (48_engine_step.md R295), and two fields of the model's own: `cfg` (log 1) and `draws` (logs 8, 9). -/
structure State where
  /-- The parameters of the core instance; no step changes them (10_state.md R44). -/
  cfg : Config
  /-- The general registers as stored. Reads and writes go through `readReg` and `writeReg` (10_state.md R20, R21). -/
  x : Vector Word 32
  /-- The program counter, a virtual address (10_state.md R24). -/
  pc : Word
  /-- `ctl[0]` (10_state.md R28). -/
  status : Word
  /-- `ctl[1]` (10_state.md R30). -/
  estatus : Word
  /-- `ctl[2]` (10_state.md R31). -/
  bstatus : Word
  /-- `ctl[3]` (10_state.md R32). -/
  ienable : Word
  /-- `ctl[5]` (10_state.md R40). -/
  cpuid : Word
  /-- `ctl[6]`, reserved (10_state.md R40). -/
  ctl6 : Word
  /-- `ctl[7]` (10_state.md R34). -/
  exception : Word
  /-- `ctl[8]` (10_state.md R35). -/
  pteaddr : Word
  /-- `ctl[9]` (10_state.md R36). -/
  tlbacc : Word
  /-- `ctl[10]` (10_state.md R37). -/
  tlbmisc : Word
  /-- `ctl[11]`, reserved (10_state.md R40). -/
  ctl11 : Word
  /-- `ctl[12]` (10_state.md R38). -/
  badaddr : Word
  /-- `ctl[13]`, `config` (10_state.md R39). -/
  configReg : Word
  /-- `ctl[14]` to `ctl[31]`, reserved (10_state.md R40). -/
  ctlHigh : Vector Word 18
  /-- `tlb[way][set]` at index `way * TLB_SETS + set` (10_state.md R41; log 22). -/
  tlb : List TlbEntry
  /-- The aggregator's line vector (10_state.md R42). -/
  lines : Word
  /-- Physical memory (10_state.md R47). -/
  mem : Memory
  /-- The host's breakpoint set (10_state.md R45). -/
  breakpoints : List Word
  /-- The host's stop flag (10_state.md R45). -/
  stopFlag : Bool
  /-- Whether the core runs, and why the last run returned (48_engine_step.md R300, R302; log 15). -/
  run : RunStatus
  /-- The boundary the core stands at is a block boundary by R295 (a), (d), (e) or (f). -/
  blockBoundary : Bool
  /-- Instructions since the last block boundary (48_engine_step.md R295(d); log 10). -/
  blockCount : Nat
  /-- The index of the next free value (93_implementation_defined.md U3, U7; logs 8, 9). -/
  draws : Nat
deriving DecidableEq, Repr

/-- Why the machine is stuck. -/
inductive Fault where
  /-- Raised by a fetch, a load or a store whose physical address the platform does not back
  (20_memory.md R60, D41, U5; log 6). Safe: no step is claimed where the spec gives none. -/
  | unbackedAddress (pa : Word)
deriving DecidableEq, Repr

/-- What the model gives no meaning. -/
inductive Refusal where
  /-- Raised by an arm of `exec` whose instruction has no meaning yet. Safe: nothing is claimed of it. -/
  | notModelled (mnemonic : String)
  /-- Raised by `step` in a state with EH = 1 and U = 1 (10_state.md R29, U1; log 11). Safe: the spec gives the
  state no behaviour. -/
  | undefinedMode
  /-- Raised by `step` when `pc` is no multiple of 4, which only a host write can bring about
  (10_state.md R25, U6; log 12). Safe: the spec gives the state no meaning. -/
  | misalignedPc
  /-- Raised by `step` when a vector is no multiple of 4: "not a valid configuration", treatment `refuse` (00_scope.md R5,
  D39, U15; log 13). Safe: the spec rejects the configuration. -/
  | invalidConfiguration
deriving DecidableEq, Repr

/-- What an instruction, or a step, answers. -/
abbrev Result := Host.Outcome State Fault Refusal

/-- An entry that software would write to say invalid: no permission, and a `vpn` that is at or above
`KERNEL_PHYS_BASE >> 12` (10_state.md R41, 20_memory.md R71). -/
def TlbEntry.unmatchable : TlbEntry where
  vpn := 0xFFFFF#20
  pid := 0#14
  pfn := 0#20
  r := false
  w := false
  x := false
  c := false
  g := false

/-- The machine right after reset, for any parameters and any initial TLB (10_state.md R48,
70_reset_and_hazards.md R370): zeroed registers, `pc` at `RESET_ADDR`, every control register and `lines` 0. The TLB is
an argument (U4). This is the reset of a core just constructed; `State.coreReset` is that of a machine there already is, and
leaves memory and the host's inputs alone. DESIGN CHOICE (logs 5, 10, 15): memory lists nothing, no breakpoint, stop flag
down, counters 0. -/
def State.resetWith (cfg : Config) (tlb : List TlbEntry) : State where
  cfg := cfg
  x := Vector.replicate 32 0#32
  pc := cfg.resetAddr
  status := 0#32
  estatus := 0#32
  bstatus := 0#32
  ienable := 0#32
  cpuid := 0#32
  ctl6 := 0#32
  exception := 0#32
  pteaddr := 0#32
  tlbacc := 0#32
  tlbmisc := 0#32
  ctl11 := 0#32
  badaddr := 0#32
  configReg := 0#32
  ctlHigh := Vector.replicate 18 0#32
  tlb := tlb
  lines := 0#32
  mem := []
  breakpoints := []
  stopFlag := false
  run := .notStarted
  blockBoundary := true
  blockCount := 0
  draws := 0

/-- The machine right after reset under `Config.default`, which has no MMU and so no TLB (log 2). -/
def State.reset : State := State.resetWith Config.default []

/-- The machine right after reset with an MMU. DESIGN CHOICE (log 4): every TLB entry is unmatchable, as in
95_test_vectors.md 2.8. -/
def State.resetMmu : State :=
  State.resetWith Config.withMmu (List.replicate Config.withMmu.tlbSize TlbEntry.unmatchable)

end Sys2Proof.Machine
end

