-- ==== Sys2Proof/Machine/Flags.lean ====
section
/-! DEFINITION. Bit fields of the control registers, and the results of comparisons. CORE has no condition codes
(10_state.md R26): a comparison's only output is 0 or 1 in a register, and the only status bits are PIE, U and EH. -/

namespace Sys2Proof.Machine

/-- `w` with `n` bits from `lo` up replaced by `v`. -/
def insertField (w : Word) (lo n : Nat) (v : BitVec n) : Word :=
  (w &&& ~~~((BitVec.allOnes n).setWidth 32 <<< lo)) ||| (v.setWidth 32 <<< lo)

/-! ### `status` (10_state.md R28) -/

/-- `status.PIE`. -/
def State.pie (s : State) : Bool := s.status.getLsbD 0

/-- `status.U`: true in user mode. -/
def State.user (s : State) : Bool := s.status.getLsbD 1

/-- `status.EH`: true in the Exception-active state (60_exceptions.md R310). -/
def State.eh (s : State) : Bool := s.status.getLsbD 2

/-- `status` as every dispatch leaves it: PIE and U clear, EH set, bits 31:3 kept (60_exceptions.md R320). -/
def handlerStatus (status : Word) : Word := insertField status 0 3 0b100#3

/-! ### `tlbmisc` (10_state.md R37) and `pteaddr` (R35) -/

/-- `tlbmisc.WAY`. -/
def tlbmiscWay (v : Word) : BitVec 4 := v.extractLsb' 20 4

/-- `tlbmisc.RD`. -/
def tlbmiscRd (v : Word) : Bool := v.getLsbD 19

/-- `tlbmisc.WE`, the "write-pending" bit. -/
def tlbmiscWe (v : Word) : Bool := v.getLsbD 18

/-- `tlbmisc.PID`. -/
def tlbmiscPid (v : Word) : BitVec 14 := v.extractLsb' 4 14

/-- `tlbmisc.DBL`, the "double" bit. -/
def tlbmiscDbl (v : Word) : Bool := v.getLsbD 3

/-- `tlbmisc` with WAY replaced. -/
def setTlbmiscWay (v : Word) (way : BitVec 4) : Word := insertField v 20 4 way

/-- `tlbmisc` with RD as it always reads: 0. -/
def clearTlbmiscRd (v : Word) : Word := insertField v 19 1 0#1

/-- `tlbmisc` with WE replaced. -/
def setTlbmiscWe (v : Word) (b : BitVec 1) : Word := insertField v 18 1 b

/-- `tlbmisc` with PID replaced. -/
def setTlbmiscPid (v : Word) (pid : BitVec 14) : Word := insertField v 4 14 pid

/-- `tlbmisc` with DBL replaced. -/
def setTlbmiscDbl (v : Word) (b : BitVec 1) : Word := insertField v 3 1 b

/-- `tlbmisc` with D replaced. -/
def setTlbmiscD (v : Word) (b : BitVec 1) : Word := insertField v 0 1 b

/-- `pteaddr.VPN`. -/
def pteaddrVpn (v : Word) : BitVec 20 := v.extractLsb' 2 20

/-- `pteaddr` with VPN replaced. -/
def setPteaddrVpn (v : Word) (vpn : BitVec 20) : Word := insertField v 2 20 vpn

/-- `exception` with CAUSE replaced (10_state.md R34). -/
def setExceptionCause (v : Word) (code : BitVec 5) : Word := insertField v 2 5 code

/-! ### The interrupt aggregator (10_state.md R43) -/

/-- `pending = ienable & lines`. -/
def State.pending (s : State) : Word := s.ienable &&& s.lines

/-- `asserted = (status.PIE = 1) and (pending != 0)` (60_exceptions.md R336). -/
def State.asserted (s : State) : Bool := s.pie && s.pending != 0#32

/-! ### Comparisons (41_compare.md R170) -/

/-- The 32-bit value 1 if the relation holds, 0 otherwise. -/
def truthWord (b : Bool) : Word := if b then 1#32 else 0#32

/-- Equality of words. -/
def wordEq (a b : Word) : Bool := a == b

/-- `signed(a) >= signed(b)`. -/
def signedGe (a b : Word) : Bool := decide (a.toInt ≥ b.toInt)

/-- `signed(a) < signed(b)`. -/
def signedLt (a b : Word) : Bool := decide (a.toInt < b.toInt)

/-- `unsigned(a) >= unsigned(b)`. -/
def unsignedGe (a b : Word) : Bool := decide (a.toNat ≥ b.toNat)

/-- `unsigned(a) < unsigned(b)`. -/
def unsignedLt (a b : Word) : Bool := decide (a.toNat < b.toNat)

end Sys2Proof.Machine
end

