-- ==== Sys2Proof/Machine/Operands.lean ====
section
/-! DEFINITION. Operands: registers, immediates, addresses, targets, shift amounts. -/

namespace Sys2Proof.Machine

/-- A register number as an index into the register file. -/
def regIndex (r : RegNum) : Fin 32 := ⟨r.toNat, r.isLt⟩

/-- Whether register `r` is the one that `R0_HARDWIRED` makes constant (10_state.md R21). -/
def State.hardwired (s : State) (r : RegNum) : Bool := s.cfg.r0Hardwired && r == 0#5

/-- `x[r]` as every rule reads it (00_scope.md R8): 0 for a hardwired register 0. -/
def State.readReg (s : State) (r : RegNum) : Word :=
  if s.hardwired r then 0#32 else s.x.get (regIndex r)

/-- `x[r] <- v` as every rule writes it (00_scope.md R8): discarded for a hardwired register 0. -/
def State.writeReg (s : State) (r : RegNum) (v : Word) : State :=
  if s.hardwired r then s else { s with x := s.x.set (regIndex r) v }

/-- `ea`, the exception-address register (10_state.md R22). -/
def regEa : RegNum := 29#5

/-- `ba`, the break-address register (10_state.md R22). -/
def regBa : RegNum := 30#5

/-- `ra`, the call link register (10_state.md R22). -/
def regRa : RegNum := 31#5

/-! ### Immediates (30_encoding.md R121) -/

/-- `sext_16(IMM16)`. -/
def immSigned (imm16 : BitVec 16) : Word := imm16.signExtend 32

/-- `zext_16(IMM16)`. -/
def immUnsigned (imm16 : BitVec 16) : Word := imm16.setWidth 32

/-- `IMM16 ++ 0x0000`. -/
def immHigh (imm16 : BitVec 16) : Word := imm16 ++ 0#16

/-- `sext_16(IMM16 & 0xFFFC)`, a branch offset. -/
def immBranch (imm16 : BitVec 16) : Word := (imm16 &&& 0xFFFC#16).signExtend 32

/-! ### Addresses and targets -/

/-- The successor `pc + 4` modulo 2^32 (10_state.md R24). -/
def State.pcNext (s : State) : Word := s.pc + 4#32

/-- `ea <- (x[A] + sext_16(IMM16)) mod 2^32` (43_load_store.md R205). -/
def State.effectiveAddress (s : State) (ra : RegNum) (imm16 : BitVec 16) : Word := s.readReg ra + immSigned imm16

/-- `(pc + 4 + sext_16(IMM16 & 0xFFFC)) mod 2^32` (44_control_transfer.md R236). -/
def State.branchTarget (s : State) (imm16 : BitVec 16) : Word := s.pcNext + immBranch imm16

/-- `pc[31:28] ++ IMM26 ++ 00` (44_control_transfer.md R238). -/
def State.absoluteTarget (s : State) (imm26 : BitVec 26) : Word := s.pc.extractLsb' 28 4 ++ imm26 ++ 0#2

/-- Whether a register target is a multiple of 4 (44_control_transfer.md R237). -/
def aligned4 (v : Word) : Bool := v.extractLsb' 0 2 == 0#2

/-! ### Shift amounts (42_shift_rotate.md R190) -/

/-- `x[B][4:0]`. -/
def amountOfReg (v : Word) : Nat := (v.extractLsb' 0 5).toNat

/-- `IMM5`. -/
def amountOfImm (imm5 : BitVec 5) : Nat := imm5.toNat

/-! ### Widths of data accesses (20_memory.md R62) -/

/-- 1, 2 or 4 bytes. -/
inductive Width where
  | byte
  | half
  | word
deriving DecidableEq, Repr

/-- The `n` of an access. -/
def Width.bytes (n : Width) : Nat :=
  match n with
  | .byte => 1
  | .half => 2
  | .word => 4

/-- Whether `va` is misaligned for an access of this width (20_memory.md R63). -/
def Width.misaligned (n : Width) (va : Word) : Bool :=
  match n with
  | .byte => false
  | .half => va.extractLsb' 0 1 != 0#1
  | .word => va.extractLsb' 0 2 != 0#2

/-- Sign extension of a loaded value (43_load_store.md R207). -/
def Width.signExtend (n : Width) (v : Word) : Word :=
  match n with
  | .byte => (v.extractLsb' 0 8).signExtend 32
  | .half => (v.extractLsb' 0 16).signExtend 32
  | .word => v

/-- Zero extension of a loaded value (43_load_store.md R207). -/
def Width.zeroExtend (n : Width) (v : Word) : Word :=
  match n with
  | .byte => (v.extractLsb' 0 8).setWidth 32
  | .half => (v.extractLsb' 0 16).setWidth 32
  | .word => v

end Sys2Proof.Machine
end

