-- ==== Sys2Proof/Machine/Ops.lean ====
section
/-! DEFINITION. The operations that instructions share: the successor and transfers of `pc`, taking an exception and
returning from one, physical memory, translation and the access primitives, control registers and the TLB protocols. -/

namespace Sys2Proof.Machine

/-! ### The program counter and block ends -/

/-- `pc <- pc + 4` (10_state.md R24). -/
def State.advance (s : State) : State := { s with pc := s.pcNext }

/-- The instruction boundary that follows is a block boundary (48_engine_step.md R295(a), (e), (f)). -/
def State.endBlock (s : State) : State := { s with blockBoundary := true }

/-- `x[r] <- v ; pc <- pc + 4`: how every computing instruction ends (40_arithmetic_logic.md R140). -/
def writeResult (r : RegNum) (v : Word) (s : State) : Result := .next (s.writeReg r v).advance

/-- A control transfer to `target`, which ends the block (44_control_transfer.md R235, 48_engine_step.md R295(a)). -/
def State.jumpTo (s : State) (target : Word) : State := { s with pc := target, blockBoundary := true }

/-- A run that comes back to the host at this boundary (48_engine_step.md R300); the next run starts at a block
boundary (R295). -/
def State.returnToHost (s : State) (why : ReturnReason) : State :=
  { s with run := .returned why, blockBoundary := true }

/-- Whether the core is stopped: no run is in progress (48_engine_step.md R302; log 15). -/
def State.stopped (s : State) : Bool := s.run != .running

/-! ### Taking an exception (60_exceptions.md) -/

/-- The causes of 60_exceptions.md R312. Code 8 (`DivisionError`) is never raised and has no name here (log 24). -/
inductive Cause where
  | interrupt
  | trap
  | unimplementedInstruction
  | illegalInstruction
  | misalignedDataAddress
  | misalignedDestinationAddress
  | supervisorInstructionAddress
  | supervisorInstruction
  | supervisorDataAddress
  | tlbMiss
  | tlbPermissionExecute
  | tlbPermissionRead
  | tlbPermissionWrite
  | debugBreak
deriving DecidableEq, Repr

/-- The numeric cause code (60_exceptions.md R312). -/
def Cause.code (c : Cause) : BitVec 5 :=
  match c with
  | .interrupt => 2#5
  | .trap => 3#5
  | .unimplementedInstruction => 4#5
  | .illegalInstruction => 5#5
  | .misalignedDataAddress => 6#5
  | .misalignedDestinationAddress => 7#5
  | .supervisorInstructionAddress => 9#5
  | .supervisorInstruction => 10#5
  | .supervisorDataAddress => 11#5
  | .tlbMiss => 12#5
  | .tlbPermissionExecute => 13#5
  | .tlbPermissionRead => 14#5
  | .tlbPermissionWrite => 15#5
  | .debugBreak => 31#5

/-- What Dispatch does to `tlbmisc` for a cause (60_exceptions.md R320): nothing, the TLB-miss row, or the
TLB-permission row. -/
inductive TlbRow where
  | none
  | miss
  | permission
deriving DecidableEq, Repr

/-- Which row of 60_exceptions.md R320 a cause is on, as far as `tlbmisc` and the vector go. -/
def Cause.tlbRow (c : Cause) : TlbRow :=
  match c with
  | .tlbMiss => .miss
  | .tlbPermissionExecute => .permission
  | .tlbPermissionRead => .permission
  | .tlbPermissionWrite => .permission
  | .interrupt => .none
  | .trap => .none
  | .unimplementedInstruction => .none
  | .illegalInstruction => .none
  | .misalignedDataAddress => .none
  | .misalignedDestinationAddress => .none
  | .supervisorInstructionAddress => .none
  | .supervisorInstruction => .none
  | .supervisorDataAddress => .none
  | .debugBreak => .none

/-- The shadow copy and the link, on first entry only: `estatus` and `x[29]`, or `bstatus` and `x[30]` for a debug
break (60_exceptions.md R320, R322, R325). -/
def saveContext (c : Cause) (pc : Word) (s : State) : State :=
  if s.eh then s
  else if c = .debugBreak then { s.writeReg regBa (pc + 4#32) with bstatus := s.status }
  else { s.writeReg regEa (pc + 4#32) with estatus := s.status }

/-- WE and DBL as a TLB miss or permission violation sets them (60_exceptions.md R320, R323, R324). -/
def markTlbmisc (c : Cause) (s : State) : State :=
  match c.tlbRow with
  | .none => s
  | .miss =>
    if s.eh then { s with tlbmisc := setTlbmiscDbl s.tlbmisc 1#1 }
    else { s with tlbmisc := setTlbmiscDbl (setTlbmiscWe s.tlbmisc 1#1) 0#1 }
  | .permission =>
    if s.eh then s
    else { s with tlbmisc := setTlbmiscWe (setTlbmiscDbl s.tlbmisc 0#1) 1#1 }

/-- Where the handler starts: the fast vector for a first-entry TLB miss, the general one for everything else
(60_exceptions.md R320, R326). -/
def vectorOf (c : Cause) (s : State) : Word :=
  if c = .tlbMiss ∧ s.eh = false then s.cfg.fastTlbMissAddr else s.cfg.exceptionAddr

/-- The last lines of Dispatch: `status`, `exception.CAUSE`, `pc`, and the end of the block
(60_exceptions.md R320; 48_engine_step.md R295(f)). -/
def enterHandler (c : Cause) (vector : Word) (s : State) : State :=
  { s with
    status := handlerStatus s.status
    exception := setExceptionCause s.exception c.code
    pc := vector
    blockBoundary := true }

/-- `Dispatch(cause, pc)`: the one operation that takes an exception (60_exceptions.md R320). EH is read before
anything is written. -/
def dispatch (c : Cause) (pc : Word) (s : State) : State :=
  enterHandler c (vectorOf c s) (markTlbmisc c (saveContext c pc s))

/-- `raise <Exception>` at the instruction being executed (00_scope.md R8). -/
def raise (c : Cause) (s : State) : Result := .next (dispatch c s.pc s)

/-- `badaddr <- t; raise MisalignedDestinationAddress(t)` (44_control_transfer.md R237). -/
def raiseMisalignedDestination (t : Word) (s : State) : Result :=
  .next (dispatch .misalignedDestinationAddress s.pc { s with badaddr := t })

/-- A register-sourced transfer: a target that is no multiple of 4 raises cause 7 and writes nothing else
(44_control_transfer.md R237). -/
def jumpRegister (t : Word) (s : State) (transfer : State) : Result :=
  if aligned4 t then .next transfer else raiseMisalignedDestination t s

/-! ### Returning from an exception (60_exceptions.md R330) -/

/-- Whether `eret` and `bret` are rejected in this state (45_system.md R278). -/
def State.returnRejected (s : State) : Bool := s.user && s.cfg.eretBretPrivileged

/-- `status <- estatus; pc <- t` (45_system.md R266). -/
def returnFromException (t : Word) (s : State) : State := { s with status := s.estatus, pc := t, blockBoundary := true }

/-- `pc <- t` alone: `status` is not restored (45_system.md R263). -/
def returnFromBreak (t : Word) (s : State) : State := s.jumpTo t

/-! ### Physical memory (20_memory.md R60, R61) -/

/-- What an address that memory does not list reads as. DESIGN CHOICE (log 5): the spec gives RAM no contents. -/
def Memory.unlisted : Byte := 0#8

/-- The byte at a physical address. -/
def Memory.read (m : Memory) (a : Nat) : Byte :=
  match m with
  | [] => Memory.unlisted
  | (k, v) :: rest => if k = a then v else Memory.read rest a

/-- A cell in front of cells with greater addresses, left out where it says what an unlisted address says. -/
def Memory.cons (a : Nat) (b : Byte) (m : Memory) : Memory := if b = Memory.unlisted then m else (a, b) :: m

/-- The byte at a physical address replaced, the canonical form kept. -/
def Memory.write (m : Memory) (a : Nat) (b : Byte) : Memory :=
  match m with
  | [] => Memory.cons a b []
  | (k, v) :: rest =>
    if a < k then Memory.cons a b ((k, v) :: rest)
    else if a = k then Memory.cons a b rest
    else (k, v) :: Memory.write rest a b

/-- Whether every address of the cells is `lo` or more, addresses strictly rise and stay below 2^32, and no cell holds
what an unlisted address reads as. -/
def Memory.wfFrom (lo : Nat) (m : Memory) : Bool :=
  match m with
  | [] => true
  | (k, v) :: rest => decide (lo ≤ k) && decide (k < 2 ^ 32) && v != Memory.unlisted && Memory.wfFrom (k + 1) rest

/-- The canonical form of memory. -/
def Memory.wf (m : Memory) : Bool := Memory.wfFrom 0 m

/-- The physical address of byte `k` of an access at `pa`. -/
def byteAddress (pa : Word) (k : Nat) : Nat := (pa + BitVec.ofNat 32 k).toNat

/-- The little-endian value of an access, in the low bits of a word (20_memory.md R61). -/
def Memory.value (m : Memory) (pa : Word) (n : Width) : Word :=
  let b (k : Nat) : Byte := m.read (byteAddress pa k)
  match n with
  | .byte => (b 0).setWidth 32
  | .half => (b 1 ++ b 0).setWidth 32
  | .word => wordOfBytes (b 0) (b 1) (b 2) (b 3)

/-- The bytes of an access replaced by the low bits of `v`, `b[k] = v[8k+7:8k]` (20_memory.md R61). -/
def Memory.store (m : Memory) (pa : Word) (n : Width) (v : Word) : Memory :=
  match n with
  | .byte => m.write (byteAddress pa 0) (byteOfWord v 0)
  | .half => (m.write (byteAddress pa 0) (byteOfWord v 0)).write (byteAddress pa 1) (byteOfWord v 1)
  | .word =>
    (((m.write (byteAddress pa 0) (byteOfWord v 0)).write (byteAddress pa 1) (byteOfWord v 1)).write
      (byteAddress pa 2) (byteOfWord v 2)).write (byteAddress pa 3) (byteOfWord v 3)

/-- Whether a region holds an address. -/
def regionHolds (r : Region) (a : Nat) : Bool := decide (r.base ≤ a) && decide (a < r.base + r.size)

/-- Whether the platform backs a physical address (20_memory.md R60, R87). -/
def State.backs (s : State) (a : Nat) : Bool := s.cfg.backed.any (fun r => regionHolds r a)

/-- Whether the platform backs every byte of an access. -/
def State.backsAccess (s : State) (pa : Word) (n : Width) : Bool :=
  (List.range n.bytes).all (fun k => s.backs (byteAddress pa k))

/-! ### Translation and protection (20_memory.md R66 to R75) -/

/-- What an access can be rejected for, in the order of 20_memory.md R80. -/
inductive MemFault where
  | supervisor
  | misaligned
  | tlbMiss
  | tlbPermission
deriving DecidableEq, Repr

/-- The cause a rejected access of a kind raises (20_memory.md R63, R70, R74, R75). A fetch is never misaligned
(R64); its row repeats the data one. -/
def MemFault.cause (f : MemFault) (k : AccessKind) : Cause :=
  match f, k with
  | .supervisor, .fetch => .supervisorInstructionAddress
  | .supervisor, .read => .supervisorDataAddress
  | .supervisor, .write => .supervisorDataAddress
  | .misaligned, _ => .misalignedDataAddress
  | .tlbMiss, _ => .tlbMiss
  | .tlbPermission, .fetch => .tlbPermissionExecute
  | .tlbPermission, .read => .tlbPermissionRead
  | .tlbPermission, .write => .tlbPermissionWrite

/-- `va[31:12]`. -/
def vpnOf (va : Word) : BitVec 20 := va.extractLsb' 12 20

/-- The set a virtual page lives in: `vpn mod TLB_SETS` (10_state.md R41). -/
def State.setOf (s : State) (vpn : BitVec 20) : Nat := vpn.toNat % s.cfg.tlbSets

/-- `tlb[way][set]`. A place outside the list, which the machine invariant rules out, reads as an unmatchable entry
(log 22). -/
def State.tlbEntry (s : State) (way set : Nat) : TlbEntry := s.tlb.getD (way * s.cfg.tlbSets + set) TlbEntry.unmatchable

/-- Whether an entry matches a page and process id (20_memory.md R71). -/
def TlbEntry.matches (e : TlbEntry) (vpn : BitVec 20) (pid : BitVec 14) : Bool := e.vpn == vpn && (e.g || e.pid == pid)

/-- The set `M` of matching ways, lowest first (20_memory.md R71). -/
def State.matchingWays (s : State) (vpn : BitVec 20) : List Nat :=
  (List.range s.cfg.tlbWays).filter
    (fun way => (s.tlbEntry way (s.setOf vpn)).matches vpn (tlbmiscPid s.tlbmisc))

/-- The way a translation uses: none on a miss, the one that matches, or a drawn one of several
(20_memory.md R72, U3; log 8). -/
def State.chosenWay (s : State) (vpn : BitVec 20) (k : AccessKind) : Option Nat :=
  match s.matchingWays vpn with
  | [] => none
  | [way] => some way
  | way :: more => some ((way :: more).getD (Config.freeWay s.draws k % (way :: more).length) way)

/-- Whether an entry permits an access kind (20_memory.md R73). -/
def TlbEntry.permits (e : TlbEntry) (k : AccessKind) : Bool :=
  match k with
  | .read => e.r
  | .write => e.w
  | .fetch => e.x

/-- `TlbTranslate(va, kind)` (20_memory.md R71). -/
def State.tlbTranslate (s : State) (va : Word) (k : AccessKind) : Except MemFault Word :=
  match s.chosenWay (vpnOf va) k with
  | none => .error .tlbMiss
  | some way =>
    let e := s.tlbEntry way (s.setOf (vpnOf va))
    if e.permits k then .ok (e.pfn ++ va.extractLsb' 0 12) else .error .tlbPermission

/-- The bands of the virtual space (20_memory.md R66). -/
inductive Band where
  | kernelPhysical
  | kernelVirtual
  | userVirtual
deriving DecidableEq, Repr

/-- Which band an address is in (20_memory.md R66). -/
def bandOf (c : Config) (va : Word) : Band :=
  if va.toNat ≥ c.kernelPhysBase.toNat then .kernelPhysical
  else if va.toNat ≥ c.kernelVirtBase.toNat then .kernelVirtual
  else .userVirtual

/-- Whether an access in the current mode is a supervisor violation (20_memory.md R70). -/
def State.supervisorViolation (s : State) (va : Word) : Bool :=
  s.cfg.mmuPresent && bandOf s.cfg va == .kernelPhysical && s.user

/-- `Translate(va, kind)` (20_memory.md R67): identity with no MMU (R68), the bypass or a violation in the
kernel-physical band (R69, R70), the TLB in both other bands (R66). -/
def State.translate (s : State) (va : Word) (k : AccessKind) : Except MemFault Word :=
  if s.cfg.mmuPresent then
    match bandOf s.cfg va with
    | .kernelPhysical => if s.user then .error .supervisor else .ok va
    | .kernelVirtual => s.tlbTranslate va k
    | .userVirtual => s.tlbTranslate va k
  else .ok va

/-- The checks of a data access in their order, and the physical address if all pass (20_memory.md R80). -/
def State.dataAddress (s : State) (va : Word) (n : Width) (k : AccessKind) : Except MemFault Word :=
  if s.supervisorViolation va then .error .supervisor
  else if n.misaligned va then .error .misaligned
  else s.translate va k

/-- `tlbmisc.D` of a fault: 0 for a fetch, 1 for data (20_memory.md R74, R75). -/
def faultDataBit (k : AccessKind) : BitVec 1 :=
  match k with
  | .fetch => 0#1
  | .read => 1#1
  | .write => 1#1

/-- What a rejected access records before Dispatch runs (20_memory.md R63, R70, R74, R75; 60_exceptions.md R315). -/
def recordFault (f : MemFault) (k : AccessKind) (va : Word) (s : State) : State :=
  match f with
  | .supervisor => { s with badaddr := va }
  | .misaligned => { s with badaddr := va }
  | .tlbMiss =>
    { s with
      badaddr := va
      pteaddr := setPteaddrVpn s.pteaddr (vpnOf va)
      tlbmisc := setTlbmiscD s.tlbmisc (faultDataBit k) }
  | .tlbPermission => { s with badaddr := va, tlbmisc := setTlbmiscD s.tlbmisc (faultDataBit k) }

/-- The exception a rejected access takes, at the instruction being executed. -/
def raiseMemFault (f : MemFault) (k : AccessKind) (va : Word) (s : State) : State :=
  dispatch (f.cause k) s.pc (recordFault f k va s)

/-! ### The access primitives (20_memory.md R80) -/

/-- `MemRead(va, n)` and what is done with the value; a rejected access takes its exception, and an unbacked address
has no step (R60). -/
def memRead (va : Word) (n : Width) (s : State) (andThen : Word → State) : Result :=
  match s.dataAddress va n .read with
  | .error f => .next (raiseMemFault f .read va s)
  | .ok pa => if s.backsAccess pa n then .next (andThen (s.mem.value pa n)) else .fault (.unbackedAddress pa)

/-- `MemWrite(va, n, v)` and what follows it. -/
def memWrite (va : Word) (n : Width) (v : Word) (s : State) (andThen : State → State) : Result :=
  match s.dataAddress va n .write with
  | .error f => .next (raiseMemFault f .write va s)
  | .ok pa =>
    if s.backsAccess pa n then .next (andThen { s with mem := s.mem.store pa n v }) else .fault (.unbackedAddress pa)

/-! ### Control registers (10_state.md R27) and the TLB protocols (20_memory.md R76, R77) -/

/-- `ctl[n]` as `rdctl` sees it; slot 4 is `ienable & lines` and has no storage (10_state.md R33, 45_system.md R264). -/
def State.readCtl (s : State) (n : RegNum) : Word :=
  match n.toNat with
  | 0 => s.status
  | 1 => s.estatus
  | 2 => s.bstatus
  | 3 => s.ienable
  | 4 => s.pending
  | 5 => s.cpuid
  | 6 => s.ctl6
  | 7 => s.exception
  | 8 => s.pteaddr
  | 9 => s.tlbacc
  | 10 => s.tlbmisc
  | 11 => s.ctl11
  | 12 => s.badaddr
  | 13 => s.configReg
  | k => s.ctlHigh.getD (k - 14) 0#32

/-- The storing part of a control-register write: all 32 bits, but for `pteaddr[1:0]` and `tlbmisc.RD`, which always
read 0, and `ipending`, which nothing writes (45_system.md R265; 10_state.md R33, R35, R37). -/
def State.storeCtl (s : State) (n : RegNum) (v : Word) : State :=
  match n.toNat with
  | 0 => { s with status := v }
  | 1 => { s with estatus := v }
  | 2 => { s with bstatus := v }
  | 3 => { s with ienable := v }
  | 4 => s
  | 5 => { s with cpuid := v }
  | 6 => { s with ctl6 := v }
  | 7 => { s with exception := v }
  | 8 => { s with pteaddr := v &&& 0xFFFFFFFC#32 }
  | 9 => { s with tlbacc := v }
  | 10 => { s with tlbmisc := clearTlbmiscRd v }
  | 11 => { s with ctl11 := v }
  | 12 => { s with badaddr := v }
  | 13 => { s with configReg := v }
  | k => { s with ctlHigh := s.ctlHigh.setIfInBounds (k - 14) v }

/-- The entry that `tlbacc`, `pteaddr.VPN` and `tlbmisc.PID` describe (20_memory.md R76; 10_state.md R36). -/
def entryOf (tlbacc : Word) (vpn : BitVec 20) (pid : BitVec 14) : TlbEntry where
  vpn := vpn
  pid := pid
  pfn := tlbacc.extractLsb' 0 20
  c := tlbacc.getLsbD 24
  r := tlbacc.getLsbD 23
  w := tlbacc.getLsbD 22
  x := tlbacc.getLsbD 21
  g := tlbacc.getLsbD 20

/-- `e.c ++ e.r ++ e.w ++ e.x ++ e.g ++ e.pfn`, the low 25 bits of `tlbacc` (20_memory.md R77). -/
def TlbEntry.accBits (e : TlbEntry) : BitVec 25 :=
  BitVec.ofBool e.c ++ BitVec.ofBool e.r ++ BitVec.ofBool e.w ++ BitVec.ofBool e.x ++ BitVec.ofBool e.g ++ e.pfn

/-- `tlbmisc.WAY mod TLB_WAYS`. -/
def State.selectedWay (s : State) : Nat := (tlbmiscWay s.tlbmisc).toNat % s.cfg.tlbWays

/-- The set that `pteaddr.VPN` selects. -/
def State.selectedSet (s : State) : Nat := s.setOf (pteaddrVpn s.pteaddr)

/-- The write half of a `wrctl tlbacc`, `tlbacc` being stored already (20_memory.md R76). -/
def State.tlbWrite (s : State) : State :=
  if tlbmiscWe s.tlbmisc then
    { s with
      tlb := s.tlb.set (s.selectedWay * s.cfg.tlbSets + s.selectedSet)
        (entryOf s.tlbacc (pteaddrVpn s.pteaddr) (tlbmiscPid s.tlbmisc))
      tlbmisc := setTlbmiscWay s.tlbmisc (BitVec.ofNat 4 ((s.selectedWay + 1) % s.cfg.tlbWays)) }
  else s

/-- The read half of a `wrctl tlbmisc` with RD = 1, `tlbmisc` being stored already (20_memory.md R77). -/
def State.tlbRead (s : State) : State :=
  let e := s.tlbEntry s.selectedWay s.selectedSet
  { s with
    tlbacc := insertField s.tlbacc 0 25 e.accBits
    tlbmisc := setTlbmiscPid s.tlbmisc e.pid
    pteaddr := setPteaddrVpn s.pteaddr e.vpn }

/-- `ctl[n] <- v` as `wrctl` performs it in supervisor mode (45_system.md R265): the store, and with an MMU the TLB
protocols of `tlbacc` and `tlbmisc` (20_memory.md R68, R76, R77). -/
def State.writeCtl (s : State) (n : RegNum) (v : Word) : State :=
  if s.cfg.mmuPresent && n == 9#5 then (s.storeCtl n v).tlbWrite
  else if s.cfg.mmuPresent && n == 10#5 && tlbmiscRd v then (s.storeCtl n v).tlbRead
  else s.storeCtl n v

end Sys2Proof.Machine
end

