-- ==== Sys2Proof/Machine/Arith.lean ====
section
/-! DEFINITION. The arithmetic instructions (40_arithmetic_logic.md R140 to R151). -/

namespace Sys2Proof.Machine

/-- Bits 63:32 of a 64-bit product, from the exact product (40_arithmetic_logic.md R141, R147). -/
def highWord (p : Int) : Word := (BitVec.ofInt 64 p).extractLsb' 32 32

/-- The corner in which `div` has no stated result: divisor zero, and -2^31 / -1 (40_arithmetic_logic.md R150). -/
def divUndefined (a b : Word) : Bool := b == 0#32 || (a == 0x80000000#32 && b == 0xFFFFFFFF#32)

/-- `div`: `trunc(signed(a) / signed(b))`, or `DivCorner` (40_arithmetic_logic.md R150; log 7). -/
def divSigned (a b : Word) : Word :=
  if divUndefined a b then Config.divCorner .div a b else BitVec.ofInt 32 (a.toInt.tdiv b.toInt)

/-- `divu`: `floor(unsigned(a) / unsigned(b))`, or `DivCorner` (40_arithmetic_logic.md R151; log 7). -/
def divUnsigned (a b : Word) : Word :=
  if b = 0#32 then Config.divCorner .divu a b else BitVec.ofNat 32 (a.toNat / b.toNat)

/-- `add rC, rA, rB` (40_arithmetic_logic.md R142). -/
def execAdd (rc ra rb : RegNum) (s : State) : Result :=
  writeResult rc (s.readReg ra + s.readReg rb) s

/-- `addi rB, rA, imm16` (40_arithmetic_logic.md R143). -/
def execAddi (rb ra : RegNum) (imm16 : BitVec 16) (s : State) : Result :=
  writeResult rb (s.readReg ra + immSigned imm16) s

/-- `sub rC, rA, rB` (40_arithmetic_logic.md R144). -/
def execSub (rc ra rb : RegNum) (s : State) : Result :=
  writeResult rc (s.readReg ra - s.readReg rb) s

/-- `mul rC, rA, rB` (40_arithmetic_logic.md R145). -/
def execMul (rc ra rb : RegNum) (s : State) : Result :=
  writeResult rc (s.readReg ra * s.readReg rb) s

/-- `muli rB, rA, imm16` (40_arithmetic_logic.md R146). -/
def execMuli (rb ra : RegNum) (imm16 : BitVec 16) (s : State) : Result :=
  writeResult rb (s.readReg ra * immSigned imm16) s

/-- `mulxss rC, rA, rB` (40_arithmetic_logic.md R147). -/
def execMulxss (rc ra rb : RegNum) (s : State) : Result :=
  writeResult rc (highWord ((s.readReg ra).toInt * (s.readReg rb).toInt)) s

/-- `mulxsu rC, rA, rB` (40_arithmetic_logic.md R148). -/
def execMulxsu (rc ra rb : RegNum) (s : State) : Result :=
  writeResult rc (highWord ((s.readReg ra).toInt * (s.readReg rb).toNat)) s

/-- `mulxuu rC, rA, rB` (40_arithmetic_logic.md R149). -/
def execMulxuu (rc ra rb : RegNum) (s : State) : Result :=
  writeResult rc (highWord ((s.readReg ra).toNat * (s.readReg rb).toNat)) s

/-- `div rC, rA, rB` (40_arithmetic_logic.md R150). -/
def execDiv (rc ra rb : RegNum) (s : State) : Result :=
  writeResult rc (divSigned (s.readReg ra) (s.readReg rb)) s

/-- `divu rC, rA, rB` (40_arithmetic_logic.md R151). -/
def execDivu (rc ra rb : RegNum) (s : State) : Result :=
  writeResult rc (divUnsigned (s.readReg ra) (s.readReg rb)) s

end Sys2Proof.Machine
end

