-- ==== Sys2Proof/Machine/Compare.lean ====
section
/-! DEFINITION. The comparison instructions (41_compare.md R170 to R182). -/

namespace Sys2Proof.Machine

/-- `cmpeq rC, rA, rB` (41_compare.md R171). -/
def execCmpeq (rc ra rb : RegNum) (s : State) : Result :=
  writeResult rc (truthWord (wordEq (s.readReg ra) (s.readReg rb))) s

/-- `cmpne rC, rA, rB` (41_compare.md R172). -/
def execCmpne (rc ra rb : RegNum) (s : State) : Result :=
  writeResult rc (truthWord (!wordEq (s.readReg ra) (s.readReg rb))) s

/-- `cmpge rC, rA, rB` (41_compare.md R173). -/
def execCmpge (rc ra rb : RegNum) (s : State) : Result :=
  writeResult rc (truthWord (signedGe (s.readReg ra) (s.readReg rb))) s

/-- `cmpgeu rC, rA, rB` (41_compare.md R174). -/
def execCmpgeu (rc ra rb : RegNum) (s : State) : Result :=
  writeResult rc (truthWord (unsignedGe (s.readReg ra) (s.readReg rb))) s

/-- `cmplt rC, rA, rB` (41_compare.md R175). -/
def execCmplt (rc ra rb : RegNum) (s : State) : Result :=
  writeResult rc (truthWord (signedLt (s.readReg ra) (s.readReg rb))) s

/-- `cmpltu rC, rA, rB` (41_compare.md R176). -/
def execCmpltu (rc ra rb : RegNum) (s : State) : Result :=
  writeResult rc (truthWord (unsignedLt (s.readReg ra) (s.readReg rb))) s

/-- `cmpeqi rB, rA, imm16` (41_compare.md R177). -/
def execCmpeqi (rb ra : RegNum) (imm16 : BitVec 16) (s : State) : Result :=
  writeResult rb (truthWord (wordEq (s.readReg ra) (immSigned imm16))) s

/-- `cmpnei rB, rA, imm16` (41_compare.md R178). -/
def execCmpnei (rb ra : RegNum) (imm16 : BitVec 16) (s : State) : Result :=
  writeResult rb (truthWord (!wordEq (s.readReg ra) (immSigned imm16))) s

/-- `cmpgei rB, rA, imm16` (41_compare.md R179). -/
def execCmpgei (rb ra : RegNum) (imm16 : BitVec 16) (s : State) : Result :=
  writeResult rb (truthWord (signedGe (s.readReg ra) (immSigned imm16))) s

/-- `cmpgeui rB, rA, imm16` (41_compare.md R180). -/
def execCmpgeui (rb ra : RegNum) (imm16 : BitVec 16) (s : State) : Result :=
  writeResult rb (truthWord (unsignedGe (s.readReg ra) (immUnsigned imm16))) s

/-- `cmplti rB, rA, imm16` (41_compare.md R181). -/
def execCmplti (rb ra : RegNum) (imm16 : BitVec 16) (s : State) : Result :=
  writeResult rb (truthWord (signedLt (s.readReg ra) (immSigned imm16))) s

/-- `cmpltui rB, rA, imm16` (41_compare.md R182). -/
def execCmpltui (rb ra : RegNum) (imm16 : BitVec 16) (s : State) : Result :=
  writeResult rb (truthWord (unsignedLt (s.readReg ra) (immUnsigned imm16))) s

end Sys2Proof.Machine
end

