-- ==== Sys2Proof/Machine/Control.lean ====
section
/-! DEFINITION. The control-transfer instructions (44_control_transfer.md R235 to R251). -/

namespace Sys2Proof.Machine

/-- A conditional branch: to the target if taken, else to `pc + 4`; it ends the block either way
(44_control_transfer.md R236; 48_engine_step.md R295(a)). -/
def branch (taken : Bool) (imm16 : BitVec 16) (s : State) : Result :=
  .next (s.jumpTo (if taken then s.branchTarget imm16 else s.pcNext))

/-- `br label` (44_control_transfer.md R239). -/
def execBr (imm16 : BitVec 16) (s : State) : Result := branch true imm16 s

/-- `beq rA, rB, label` (44_control_transfer.md R240). -/
def execBeq (ra rb : RegNum) (imm16 : BitVec 16) (s : State) : Result :=
  branch (wordEq (s.readReg ra) (s.readReg rb)) imm16 s

/-- `bne rA, rB, label` (44_control_transfer.md R241). -/
def execBne (ra rb : RegNum) (imm16 : BitVec 16) (s : State) : Result :=
  branch (!wordEq (s.readReg ra) (s.readReg rb)) imm16 s

/-- `bge rA, rB, label` (44_control_transfer.md R242). -/
def execBge (ra rb : RegNum) (imm16 : BitVec 16) (s : State) : Result :=
  branch (signedGe (s.readReg ra) (s.readReg rb)) imm16 s

/-- `bgeu rA, rB, label` (44_control_transfer.md R243). -/
def execBgeu (ra rb : RegNum) (imm16 : BitVec 16) (s : State) : Result :=
  branch (unsignedGe (s.readReg ra) (s.readReg rb)) imm16 s

/-- `blt rA, rB, label` (44_control_transfer.md R244). -/
def execBlt (ra rb : RegNum) (imm16 : BitVec 16) (s : State) : Result :=
  branch (signedLt (s.readReg ra) (s.readReg rb)) imm16 s

/-- `bltu rA, rB, label` (44_control_transfer.md R245). -/
def execBltu (ra rb : RegNum) (imm16 : BitVec 16) (s : State) : Result :=
  branch (unsignedLt (s.readReg ra) (s.readReg rb)) imm16 s

/-- `call label`: `x[31] <- pc + 4 ; pc <- pc[31:28] ++ IMM26 ++ 00` (44_control_transfer.md R246). -/
def execCall (imm26 : BitVec 26) (s : State) : Result :=
  .next ((s.writeReg regRa s.pcNext).jumpTo (s.absoluteTarget imm26))

/-- `jmpi label` (44_control_transfer.md R247). -/
def execJmpi (imm26 : BitVec 26) (s : State) : Result := .next (s.jumpTo (s.absoluteTarget imm26))

/-- `callr rA`: the target is read before the link is written (44_control_transfer.md R248). -/
def execCallr (ra : RegNum) (s : State) : Result :=
  jumpRegister (s.readReg ra) s ((s.writeReg regRa s.pcNext).jumpTo (s.readReg ra))

/-- `jmp rA` (44_control_transfer.md R249). -/
def execJmp (ra : RegNum) (s : State) : Result := jumpRegister (s.readReg ra) s (s.jumpTo (s.readReg ra))

/-- `ret`: always through `x[31]` (44_control_transfer.md R250). -/
def execRet (s : State) : Result := jumpRegister (s.readReg regRa) s (s.jumpTo (s.readReg regRa))

/-- `nextpc rC`: no transfer, and it does not end a block (44_control_transfer.md R251). -/
def execNextpc (rc : RegNum) (s : State) : Result := writeResult rc s.pcNext s

end Sys2Proof.Machine
end

