-- ==== Sys2Proof/Machine/LoadStore.lean ====
section
/-! DEFINITION. The load and store instructions (43_load_store.md R205 to R223). -/

namespace Sys2Proof.Machine

/-- A load: `x[B] <- extend(MemRead(ea, n)) ; pc <- pc + 4` (43_load_store.md R205). -/
def load (n : Width) (extend : Word → Word) (rb ra : RegNum) (imm16 : BitVec 16) (s : State) : Result :=
  memRead (s.effectiveAddress ra imm16) n s (fun v => (s.writeReg rb (extend v)).advance)

/-- A store: `MemWrite(ea, n, x[B][8n-1:0]) ; pc <- pc + 4` (43_load_store.md R205). -/
def store (n : Width) (rb ra : RegNum) (imm16 : BitVec 16) (s : State) : Result :=
  memWrite (s.effectiveAddress ra imm16) n (s.readReg rb) s State.advance

/-- `ldb rB, imm16(rA)` (43_load_store.md R208). -/
def execLdb (rb ra : RegNum) (imm16 : BitVec 16) (s : State) : Result :=
  load .byte (Width.signExtend .byte) rb ra imm16 s

/-- `ldbu rB, imm16(rA)` (43_load_store.md R209). -/
def execLdbu (rb ra : RegNum) (imm16 : BitVec 16) (s : State) : Result :=
  load .byte (Width.zeroExtend .byte) rb ra imm16 s

/-- `ldh rB, imm16(rA)` (43_load_store.md R210). -/
def execLdh (rb ra : RegNum) (imm16 : BitVec 16) (s : State) : Result :=
  load .half (Width.signExtend .half) rb ra imm16 s

/-- `ldhu rB, imm16(rA)` (43_load_store.md R211). -/
def execLdhu (rb ra : RegNum) (imm16 : BitVec 16) (s : State) : Result :=
  load .half (Width.zeroExtend .half) rb ra imm16 s

/-- `ldw rB, imm16(rA)` (43_load_store.md R212). -/
def execLdw (rb ra : RegNum) (imm16 : BitVec 16) (s : State) : Result :=
  load .word (Width.zeroExtend .word) rb ra imm16 s

/-- `ldbio rB, imm16(rA)` (43_load_store.md R213, R206). -/
def execLdbio (rb ra : RegNum) (imm16 : BitVec 16) (s : State) : Result :=
  load .byte (Width.signExtend .byte) rb ra imm16 s

/-- `ldbuio rB, imm16(rA)` (43_load_store.md R214, R206). -/
def execLdbuio (rb ra : RegNum) (imm16 : BitVec 16) (s : State) : Result :=
  load .byte (Width.zeroExtend .byte) rb ra imm16 s

/-- `ldhio rB, imm16(rA)` (43_load_store.md R215, R206). -/
def execLdhio (rb ra : RegNum) (imm16 : BitVec 16) (s : State) : Result :=
  load .half (Width.signExtend .half) rb ra imm16 s

/-- `ldhuio rB, imm16(rA)` (43_load_store.md R216, R206). -/
def execLdhuio (rb ra : RegNum) (imm16 : BitVec 16) (s : State) : Result :=
  load .half (Width.zeroExtend .half) rb ra imm16 s

/-- `ldwio rB, imm16(rA)` (43_load_store.md R217, R206). -/
def execLdwio (rb ra : RegNum) (imm16 : BitVec 16) (s : State) : Result :=
  load .word (Width.zeroExtend .word) rb ra imm16 s

/-- `stb rB, imm16(rA)` (43_load_store.md R218). -/
def execStb (rb ra : RegNum) (imm16 : BitVec 16) (s : State) : Result :=
  store .byte rb ra imm16 s

/-- `sth rB, imm16(rA)` (43_load_store.md R219). -/
def execSth (rb ra : RegNum) (imm16 : BitVec 16) (s : State) : Result :=
  store .half rb ra imm16 s

/-- `stw rB, imm16(rA)` (43_load_store.md R220). -/
def execStw (rb ra : RegNum) (imm16 : BitVec 16) (s : State) : Result :=
  store .word rb ra imm16 s

/-- `stbio rB, imm16(rA)` (43_load_store.md R221, R206). -/
def execStbio (rb ra : RegNum) (imm16 : BitVec 16) (s : State) : Result :=
  store .byte rb ra imm16 s

/-- `sthio rB, imm16(rA)` (43_load_store.md R222, R206). -/
def execSthio (rb ra : RegNum) (imm16 : BitVec 16) (s : State) : Result :=
  store .half rb ra imm16 s

/-- `stwio rB, imm16(rA)` (43_load_store.md R223, R206). -/
def execStwio (rb ra : RegNum) (imm16 : BitVec 16) (s : State) : Result :=
  store .word rb ra imm16 s

end Sys2Proof.Machine
end

