-- ==== Sys2Proof/Machine/Logic.lean ====
section
/-! DEFINITION. The logical instructions (40_arithmetic_logic.md R152 to R161). -/

namespace Sys2Proof.Machine

/-- `and rC, rA, rB` (40_arithmetic_logic.md R152). -/
def execAnd (rc ra rb : RegNum) (s : State) : Result :=
  writeResult rc (s.readReg ra &&& s.readReg rb) s

/-- `andi rB, rA, imm16` (40_arithmetic_logic.md R153). -/
def execAndi (rb ra : RegNum) (imm16 : BitVec 16) (s : State) : Result :=
  writeResult rb (s.readReg ra &&& immUnsigned imm16) s

/-- `andhi rB, rA, imm16` (40_arithmetic_logic.md R154). -/
def execAndhi (rb ra : RegNum) (imm16 : BitVec 16) (s : State) : Result :=
  writeResult rb (s.readReg ra &&& immHigh imm16) s

/-- `or rC, rA, rB` (40_arithmetic_logic.md R155). -/
def execOr (rc ra rb : RegNum) (s : State) : Result :=
  writeResult rc (s.readReg ra ||| s.readReg rb) s

/-- `ori rB, rA, imm16` (40_arithmetic_logic.md R156). -/
def execOri (rb ra : RegNum) (imm16 : BitVec 16) (s : State) : Result :=
  writeResult rb (s.readReg ra ||| immUnsigned imm16) s

/-- `orhi rB, rA, imm16` (40_arithmetic_logic.md R157). -/
def execOrhi (rb ra : RegNum) (imm16 : BitVec 16) (s : State) : Result :=
  writeResult rb (s.readReg ra ||| immHigh imm16) s

/-- `xor rC, rA, rB` (40_arithmetic_logic.md R158). -/
def execXor (rc ra rb : RegNum) (s : State) : Result :=
  writeResult rc (s.readReg ra ^^^ s.readReg rb) s

/-- `xori rB, rA, imm16` (40_arithmetic_logic.md R159). -/
def execXori (rb ra : RegNum) (imm16 : BitVec 16) (s : State) : Result :=
  writeResult rb (s.readReg ra ^^^ immUnsigned imm16) s

/-- `xorhi rB, rA, imm16` (40_arithmetic_logic.md R160). -/
def execXorhi (rb ra : RegNum) (imm16 : BitVec 16) (s : State) : Result :=
  writeResult rb (s.readReg ra ^^^ immHigh imm16) s

/-- `nor rC, rA, rB` (40_arithmetic_logic.md R161). -/
def execNor (rc ra rb : RegNum) (s : State) : Result :=
  writeResult rc (~~~(s.readReg ra ||| s.readReg rb)) s

end Sys2Proof.Machine
end

