-- ==== Sys2Proof/Machine/Shift.lean ====
section
/-! DEFINITION. The shift and rotate instructions (42_shift_rotate.md R190 to R199). -/

namespace Sys2Proof.Machine

/-- `(a << n) mod 2^32`. -/
def shiftLeft (a : Word) (n : Nat) : Word := a <<< n

/-- `unsigned(a) >> n`. -/
def shiftRight (a : Word) (n : Nat) : Word := a >>> n

/-- `floor(signed(a) / 2^n)` as a 32-bit two's-complement word (42_shift_rotate.md R195). -/
def shiftRightArith (a : Word) (n : Nat) : Word := a.sshiftRight n

/-- `((a << n) | (a >> (32 - n))) mod 2^32`, and `a` for n = 0 (42_shift_rotate.md R197). -/
def rotateLeft (a : Word) (n : Nat) : Word := if n = 0 then a else (a <<< n) ||| (a >>> (32 - n))

/-- `((a >> n) | (a << (32 - n))) mod 2^32`, and `a` for n = 0 (42_shift_rotate.md R199). -/
def rotateRight (a : Word) (n : Nat) : Word := if n = 0 then a else (a >>> n) ||| (a <<< (32 - n))

/-- `sll rC, rA, rB` (42_shift_rotate.md R191). -/
def execSll (rc ra rb : RegNum) (s : State) : Result :=
  writeResult rc (shiftLeft (s.readReg ra) (amountOfReg (s.readReg rb))) s

/-- `slli rC, rA, imm5` (42_shift_rotate.md R192). -/
def execSlli (rc ra : RegNum) (imm5 : BitVec 5) (s : State) : Result :=
  writeResult rc (shiftLeft (s.readReg ra) (amountOfImm imm5)) s

/-- `srl rC, rA, rB` (42_shift_rotate.md R193). -/
def execSrl (rc ra rb : RegNum) (s : State) : Result :=
  writeResult rc (shiftRight (s.readReg ra) (amountOfReg (s.readReg rb))) s

/-- `srli rC, rA, imm5` (42_shift_rotate.md R194). -/
def execSrli (rc ra : RegNum) (imm5 : BitVec 5) (s : State) : Result :=
  writeResult rc (shiftRight (s.readReg ra) (amountOfImm imm5)) s

/-- `sra rC, rA, rB` (42_shift_rotate.md R195). -/
def execSra (rc ra rb : RegNum) (s : State) : Result :=
  writeResult rc (shiftRightArith (s.readReg ra) (amountOfReg (s.readReg rb))) s

/-- `srai rC, rA, imm5` (42_shift_rotate.md R196). -/
def execSrai (rc ra : RegNum) (imm5 : BitVec 5) (s : State) : Result :=
  writeResult rc (shiftRightArith (s.readReg ra) (amountOfImm imm5)) s

/-- `rol rC, rA, rB` (42_shift_rotate.md R197). -/
def execRol (rc ra rb : RegNum) (s : State) : Result :=
  writeResult rc (rotateLeft (s.readReg ra) (amountOfReg (s.readReg rb))) s

/-- `roli rC, rA, imm5` (42_shift_rotate.md R198). -/
def execRoli (rc ra : RegNum) (imm5 : BitVec 5) (s : State) : Result :=
  writeResult rc (rotateLeft (s.readReg ra) (amountOfImm imm5)) s

/-- `ror rC, rA, rB` (42_shift_rotate.md R199). -/
def execRor (rc ra rb : RegNum) (s : State) : Result :=
  writeResult rc (rotateRight (s.readReg ra) (amountOfReg (s.readReg rb))) s

end Sys2Proof.Machine
end

