-- ==== Sys2Proof/Machine/System.lean ====
section
/-! DEFINITION. The system instructions and the unimplemented slots (45_system.md R260 to R278). -/

namespace Sys2Proof.Machine

/-- `trap imm5`: takes cause 3; the code is the software's (45_system.md R261). -/
def execTrap (_imm5 : BitVec 5) (s : State) : Result := raise .trap s

/-- `break imm5`: takes cause 31, or with `HOST_INTERCEPTS_DEBUG` changes nothing and returns to the host with `pc`
at the `break` (45_system.md R262; 48_engine_step.md R297; log 23). -/
def execBrk (_imm5 : BitVec 5) (s : State) : Result :=
  if s.cfg.hostInterceptsDebug then .next (s.returnToHost .hitBreakpoint) else raise .debugBreak s

/-- `bret`: the privilege check, then the target check, then `pc` alone (45_system.md R263, R278). -/
def execBret (s : State) : Result :=
  if s.returnRejected then raise .supervisorInstruction s
  else jumpRegister (s.readReg regBa) s (returnFromBreak (s.readReg regBa) s)

/-- `eret`: the privilege check, then the target check, then `status` and `pc` (45_system.md R266, R278). -/
def execEret (s : State) : Result :=
  if s.returnRejected then raise .supervisorInstruction s
  else jumpRegister (s.readReg regEa) s (returnFromException (s.readReg regEa) s)

/-- `rdctl rC, ctlN` (45_system.md R264, R278). -/
def execRdctl (rc n : RegNum) (s : State) : Result :=
  if s.user then raise .illegalInstruction s else writeResult rc (s.readCtl n) s

/-- `wrctl ctlN, rA`: it ends the block (45_system.md R265, R278; 48_engine_step.md R295(e)). -/
def execWrctl (n ra : RegNum) (s : State) : Result :=
  if s.user then raise .illegalInstruction s else .next (s.writeCtl n (s.readReg ra)).advance.endBlock

/-- `sync`: `pc <- pc + 4` only (45_system.md R267). -/
def execSync (s : State) : Result := .next s.advance

/-- `flushd`: `pc <- pc + 4` only (45_system.md R268). -/
def execFlushd (_ra : RegNum) (_imm16 : BitVec 16) (s : State) : Result := .next s.advance

/-- `flushda`: `pc <- pc + 4` only (45_system.md R269). -/
def execFlushda (_ra : RegNum) (_imm16 : BitVec 16) (s : State) : Result := .next s.advance

/-- `flushi`: `pc <- pc + 4` only (45_system.md R270). -/
def execFlushi (_ra : RegNum) (s : State) : Result := .next s.advance

/-- `flushp`: `pc <- pc + 4` only (45_system.md R271). -/
def execFlushp (s : State) : Result := .next s.advance

/-- `initd`: `pc <- pc + 4` only (45_system.md R272). -/
def execInitd (_ra : RegNum) (_imm16 : BitVec 16) (s : State) : Result := .next s.advance

/-- `initda`: `pc <- pc + 4` only (45_system.md R273). -/
def execInitda (_ra : RegNum) (_imm16 : BitVec 16) (s : State) : Result := .next s.advance

/-- `initi`: `pc <- pc + 4` only (45_system.md R274). -/
def execIniti (_ra : RegNum) (s : State) : Result := .next s.advance

/-- `custom`: takes cause 4 (45_system.md R275). -/
def execCustom (_payload : BitVec 26) (s : State) : Result := raise .unimplementedInstruction s

/-- `rdprs rB, rA, imm16`: takes cause 4 (45_system.md R276). -/
def execRdprs (_rb _ra : RegNum) (_imm16 : BitVec 16) (s : State) : Result := raise .unimplementedInstruction s

/-- `wrprs rC, rA`: takes cause 4 (45_system.md R277). -/
def execWrprs (_rc _ra : RegNum) (s : State) : Result := raise .unimplementedInstruction s

end Sys2Proof.Machine
end

