-- ==== Sys2Proof/Machine/Dispatch.lean ====
section
/-! DEFINITION. Which meaning each instruction has. -/

namespace Sys2Proof.Machine

-- One arm per row of spec/opcode_table.json. The three unimplemented slots have a meaning too: they take cause 4.
def exec (i : Instr) (s : State) : Host.Outcome State Fault Refusal :=
  match i with
  | .add rc ra rb => Sys2Proof.Machine.execAdd rc ra rb s
  | .addi rb ra imm16 => Sys2Proof.Machine.execAddi rb ra imm16 s
  | .sub rc ra rb => Sys2Proof.Machine.execSub rc ra rb s
  | .mul rc ra rb => Sys2Proof.Machine.execMul rc ra rb s
  | .muli rb ra imm16 => Sys2Proof.Machine.execMuli rb ra imm16 s
  | .mulxss rc ra rb => Sys2Proof.Machine.execMulxss rc ra rb s
  | .mulxsu rc ra rb => Sys2Proof.Machine.execMulxsu rc ra rb s
  | .mulxuu rc ra rb => Sys2Proof.Machine.execMulxuu rc ra rb s
  | .div rc ra rb => Sys2Proof.Machine.execDiv rc ra rb s
  | .divu rc ra rb => Sys2Proof.Machine.execDivu rc ra rb s
  | .and rc ra rb => Sys2Proof.Machine.execAnd rc ra rb s
  | .andi rb ra imm16 => Sys2Proof.Machine.execAndi rb ra imm16 s
  | .andhi rb ra imm16 => Sys2Proof.Machine.execAndhi rb ra imm16 s
  | .or rc ra rb => Sys2Proof.Machine.execOr rc ra rb s
  | .ori rb ra imm16 => Sys2Proof.Machine.execOri rb ra imm16 s
  | .orhi rb ra imm16 => Sys2Proof.Machine.execOrhi rb ra imm16 s
  | .xor rc ra rb => Sys2Proof.Machine.execXor rc ra rb s
  | .xori rb ra imm16 => Sys2Proof.Machine.execXori rb ra imm16 s
  | .xorhi rb ra imm16 => Sys2Proof.Machine.execXorhi rb ra imm16 s
  | .nor rc ra rb => Sys2Proof.Machine.execNor rc ra rb s
  | .cmpeq rc ra rb => Sys2Proof.Machine.execCmpeq rc ra rb s
  | .cmpne rc ra rb => Sys2Proof.Machine.execCmpne rc ra rb s
  | .cmpge rc ra rb => Sys2Proof.Machine.execCmpge rc ra rb s
  | .cmpgeu rc ra rb => Sys2Proof.Machine.execCmpgeu rc ra rb s
  | .cmplt rc ra rb => Sys2Proof.Machine.execCmplt rc ra rb s
  | .cmpltu rc ra rb => Sys2Proof.Machine.execCmpltu rc ra rb s
  | .cmpeqi rb ra imm16 => Sys2Proof.Machine.execCmpeqi rb ra imm16 s
  | .cmpnei rb ra imm16 => Sys2Proof.Machine.execCmpnei rb ra imm16 s
  | .cmpgei rb ra imm16 => Sys2Proof.Machine.execCmpgei rb ra imm16 s
  | .cmpgeui rb ra imm16 => Sys2Proof.Machine.execCmpgeui rb ra imm16 s
  | .cmplti rb ra imm16 => Sys2Proof.Machine.execCmplti rb ra imm16 s
  | .cmpltui rb ra imm16 => Sys2Proof.Machine.execCmpltui rb ra imm16 s
  | .sll rc ra rb => Sys2Proof.Machine.execSll rc ra rb s
  | .slli rc ra imm5 => Sys2Proof.Machine.execSlli rc ra imm5 s
  | .srl rc ra rb => Sys2Proof.Machine.execSrl rc ra rb s
  | .srli rc ra imm5 => Sys2Proof.Machine.execSrli rc ra imm5 s
  | .sra rc ra rb => Sys2Proof.Machine.execSra rc ra rb s
  | .srai rc ra imm5 => Sys2Proof.Machine.execSrai rc ra imm5 s
  | .rol rc ra rb => Sys2Proof.Machine.execRol rc ra rb s
  | .roli rc ra imm5 => Sys2Proof.Machine.execRoli rc ra imm5 s
  | .ror rc ra rb => Sys2Proof.Machine.execRor rc ra rb s
  | .ldb rb ra imm16 => Sys2Proof.Machine.execLdb rb ra imm16 s
  | .ldbu rb ra imm16 => Sys2Proof.Machine.execLdbu rb ra imm16 s
  | .ldh rb ra imm16 => Sys2Proof.Machine.execLdh rb ra imm16 s
  | .ldhu rb ra imm16 => Sys2Proof.Machine.execLdhu rb ra imm16 s
  | .ldw rb ra imm16 => Sys2Proof.Machine.execLdw rb ra imm16 s
  | .ldbio rb ra imm16 => Sys2Proof.Machine.execLdbio rb ra imm16 s
  | .ldbuio rb ra imm16 => Sys2Proof.Machine.execLdbuio rb ra imm16 s
  | .ldhio rb ra imm16 => Sys2Proof.Machine.execLdhio rb ra imm16 s
  | .ldhuio rb ra imm16 => Sys2Proof.Machine.execLdhuio rb ra imm16 s
  | .ldwio rb ra imm16 => Sys2Proof.Machine.execLdwio rb ra imm16 s
  | .stb rb ra imm16 => Sys2Proof.Machine.execStb rb ra imm16 s
  | .sth rb ra imm16 => Sys2Proof.Machine.execSth rb ra imm16 s
  | .stw rb ra imm16 => Sys2Proof.Machine.execStw rb ra imm16 s
  | .stbio rb ra imm16 => Sys2Proof.Machine.execStbio rb ra imm16 s
  | .sthio rb ra imm16 => Sys2Proof.Machine.execSthio rb ra imm16 s
  | .stwio rb ra imm16 => Sys2Proof.Machine.execStwio rb ra imm16 s
  | .br imm16 => Sys2Proof.Machine.execBr imm16 s
  | .beq ra rb imm16 => Sys2Proof.Machine.execBeq ra rb imm16 s
  | .bne ra rb imm16 => Sys2Proof.Machine.execBne ra rb imm16 s
  | .bge ra rb imm16 => Sys2Proof.Machine.execBge ra rb imm16 s
  | .bgeu ra rb imm16 => Sys2Proof.Machine.execBgeu ra rb imm16 s
  | .blt ra rb imm16 => Sys2Proof.Machine.execBlt ra rb imm16 s
  | .bltu ra rb imm16 => Sys2Proof.Machine.execBltu ra rb imm16 s
  | .call imm26 => Sys2Proof.Machine.execCall imm26 s
  | .jmpi imm26 => Sys2Proof.Machine.execJmpi imm26 s
  | .callr ra => Sys2Proof.Machine.execCallr ra s
  | .jmp ra => Sys2Proof.Machine.execJmp ra s
  | .ret => Sys2Proof.Machine.execRet s
  | .nextpc rc => Sys2Proof.Machine.execNextpc rc s
  | .trap imm5 => Sys2Proof.Machine.execTrap imm5 s
  | .brk imm5 => Sys2Proof.Machine.execBrk imm5 s
  | .bret => Sys2Proof.Machine.execBret s
  | .eret => Sys2Proof.Machine.execEret s
  | .rdctl rc n => Sys2Proof.Machine.execRdctl rc n s
  | .wrctl n ra => Sys2Proof.Machine.execWrctl n ra s
  | .sync => Sys2Proof.Machine.execSync s
  | .flushd ra imm16 => Sys2Proof.Machine.execFlushd ra imm16 s
  | .flushda ra imm16 => Sys2Proof.Machine.execFlushda ra imm16 s
  | .flushi ra => Sys2Proof.Machine.execFlushi ra s
  | .flushp => Sys2Proof.Machine.execFlushp s
  | .initd ra imm16 => Sys2Proof.Machine.execInitd ra imm16 s
  | .initda ra imm16 => Sys2Proof.Machine.execInitda ra imm16 s
  | .initi ra => Sys2Proof.Machine.execIniti ra s
  | .custom payload => Sys2Proof.Machine.execCustom payload s
  | .rdprs rb ra imm16 => Sys2Proof.Machine.execRdprs rb ra imm16 s
  | .wrprs rc ra => Sys2Proof.Machine.execWrprs rc ra s

end Sys2Proof.Machine
end

