-- ==== Sys2Proof/Machine/Cycle.lean ====
section
/-! DEFINITION. The fetch-decode-execute cycle and the block boundaries (48_engine_step.md). -/

namespace Sys2Proof.Machine

/-! ### States and parameters without a meaning -/

/-- Whether the parameters are a valid configuration: the three vectors are multiples of 4 (00_scope.md R5, D39, U15). The
bounds of R6 hold by the types of `Config` (log 13). -/
def validConfig (c : Config) : Bool := aligned4 c.resetAddr && aligned4 c.exceptionAddr && aligned4 c.fastTlbMissAddr

/-- Why the spec gives a state no step, if it does not: U15, U6 and U1 of 93_implementation_defined.md
(logs 11, 12, 13, 26). -/
def State.refusal (s : State) : Option Refusal :=
  if !validConfig s.cfg then some .invalidConfiguration
  else if !aligned4 s.pc then some .misalignedPc
  else if s.eh && s.user then some .undefinedMode
  else none

/-! ### Block boundaries (48_engine_step.md R295, R296) -/

/-- Whether the instruction boundary the core stands at is a block boundary. What ended the block before it, or its
budget, is in `blockBoundary`; the first boundary of a run, a breakpoint at `pc` and a page start are read off the state
(R295(b), (c); log 10). -/
def State.isBlockBoundary (s : State) : Bool :=
  s.blockBoundary || s.stopped || s.breakpoints.contains s.pc || s.pc.toNat % 2 ^ s.cfg.pageBits == 0

/-- Whether an asserted interrupt is delivered at this boundary: always at a block boundary, by a draw elsewhere
(48_engine_step.md R296, U7; log 9). -/
def State.takesInterrupt (s : State) : Bool :=
  s.asserted && (s.isBlockBoundary || Config.freeSample s.draws)

/-- The state a step works on: a run is in progress, no block end yet. -/
def State.beginStep (s : State) : State := { s with run := .running, blockBoundary := false }

/-- What a step does to the Engine's own fields once the core has acted: it counts the instruction, ends the block when
the budget is used up (48_engine_step.md R295(d)), and moves on to the next free value. -/
def State.endStep (before after : State) : State :=
  let count := (if before.isBlockBoundary then 0 else before.blockCount) + 1
  { after with
    blockBoundary := after.blockBoundary || decide (before.cfg.blockBudget ≤ count)
    blockCount := count
    draws := before.draws + 1 }

/-! ### Fetch, decode, execute -/

/-- What a fetch answers (20_memory.md R81). -/
inductive Fetched where
  | word (w : Word)
  | rejected (f : MemFault)
  | unbacked (pa : Word)
deriving DecidableEq, Repr

/-- `MemRead(pc, 4, X)` (48_engine_step.md R291). -/
def State.fetchWord (s : State) : Fetched :=
  match s.translate s.pc .fetch with
  | .error f => .rejected f
  | .ok pa => if s.backsAccess pa .word then .word (s.mem.value pa .word) else .unbacked pa

/-- Outcome 4 of 48_engine_step.md R290: fetch, decode, and execute or raise (R291, R292, R293). -/
def fetchDecodeExecute (s : State) : Result :=
  match s.fetchWord with
  | .rejected f => .next (raiseMemFault f .fetch s.pc s)
  | .unbacked pa => .fault (.unbackedAddress pa)
  | .word w =>
    match decode w with
    | .valid i => exec i s
    | .unimplemented i => exec i s
    | .illegal _ => raise .illegalInstruction s

/-- A breakpoint match at `pc` (48_engine_step.md R297): the host takes it with no change, or Dispatch runs and then the
run returns. -/
def debugEvent (s : State) : State :=
  if s.cfg.hostInterceptsDebug then s.returnToHost .hitBreakpoint
  else (dispatch .debugBreak s.pc s).returnToHost .hitBreakpoint

/-- A next state changed by `f`; a stop as it is. -/
def mapNext (f : State → State) (r : Result) : Result :=
  match r with
  | .next s => .next (f s)
  | .fault e => .fault e
  | .refused e => .refused e

/-- One step of 48_engine_step.md R290: the stop request, else the interrupt, else the breakpoint, else the
instruction. -/
def cycle (s : State) : Result :=
  match s.refusal with
  | some r => .refused r
  | none =>
    if s.isBlockBoundary && s.stopFlag then .next (s.returnToHost .haltedByRequest)
    else if s.takesInterrupt then .next (s.endStep (dispatch .interrupt s.pc s.beginStep))
    else if s.breakpoints.contains s.pc then .next (s.endStep (debugEvent s.beginStep))
    else mapNext s.endStep (fetchDecodeExecute s.beginStep)

/-! ### Placing an instruction -/

/-- `s` with a table word stored where `s` fetches its next instruction; as it is where that fetch is rejected
(log 18). -/
def State.storeFetchWord (s : State) (nbits w : Nat) : State :=
  match s.translate s.pc .fetch with
  | .error _ => s
  | .ok pa => { s with mem := s.mem.store pa .word (tableWord nbits w) }

end Sys2Proof.Machine
end

