-- ==== Sys2Proof/Machine/Environment.lean ====
section
/-! DEFINITION. What the device layer and the host do to the machine between two steps of the core, core reset among it
(00_scope.md R9; 48_engine_step.md R302; logs 15, 16, 17). -/

namespace Sys2Proof.Machine

/-! ### Core reset -/

/-- A core reset of a machine there already is: every register, `pc`, `lines` and the TLB as after construction, memory and
the host's breakpoint set and stop flag as they were (10_state.md R48; 70_reset_and_hazards.md R370, R374). The TLB after it is
an argument (U4). The parameters are those of the instance (10_state.md R44), and the index of the next free value goes on
(log 16). -/
def State.coreReset (s : State) (tlb : List TlbEntry) : State :=
  { State.resetWith s.cfg tlb with
    mem := s.mem
    breakpoints := s.breakpoints
    stopFlag := s.stopFlag
    draws := s.draws }

/-! ### Moves that may land while the core runs -/

/-- A move that may land between any two steps of the core (48_engine_step.md R302). -/
inductive LiveMove where
  /-- `set_line(n, level)` of the device layer (60_exceptions.md R335). -/
  | setLine (n : Fin 32) (level : Bool)
  /-- A device changes a byte of physical memory, a register of its own among them (20_memory.md R82). -/
  | deviceWrite (pa : Word) (b : Byte)
  /-- The host raises the stop flag, "the stop flag alone may also be raised while the core runs". -/
  | raiseStop
deriving DecidableEq, Repr

/-- The line vector with `lines[n] <- level` (60_exceptions.md R335). -/
def setLineBit (lines : Word) (n : Fin 32) (level : Bool) : Word :=
  insertField lines n.val 1 (BitVec.ofBool level)

/-- The state after a live move. -/
def applyLive (m : LiveMove) (s : State) : State :=
  match m with
  | .setLine n level => { s with lines := setLineBit s.lines n level }
  | .deviceWrite pa b => { s with mem := s.mem.write pa.toNat b }
  | .raiseStop => { s with stopFlag := true }

/-- The state after any number of live moves, in their order. -/
def applyLives (ms : List LiveMove) (s : State) : State := ms.foldl (fun t m => applyLive m t) s

/-! ### Moves of the host while the core is stopped -/

/-- A move the host has "only while the core is stopped" (48_engine_step.md R302). -/
inductive HostMove where
  /-- Writes a general register (10_state.md R49). -/
  | writeReg (r : RegNum) (v : Word)
  /-- Writes a control register (10_state.md R49). -/
  | writeCtl (n : RegNum) (v : Word)
  /-- Writes `pc` (10_state.md R49). -/
  | writePc (v : Word)
  /-- Adds to the breakpoint set (10_state.md R45). -/
  | addBreakpoint (va : Word)
  /-- Takes from the breakpoint set. -/
  | removeBreakpoint (va : Word)
  /-- Raises or drops the stop flag (10_state.md R45). -/
  | setStop (up : Bool)
  /-- Resets the core, the TLB left with `tlb` (70_reset_and_hazards.md R370; log 16). -/
  | resetCore (tlb : List TlbEntry)
deriving DecidableEq, Repr

/-- What a host move does. A host write has no side effect but the new value (10_state.md R49), so a written `tlbacc` or
`tlbmisc` starts no TLB protocol (log 17). -/
def hostEffect (m : HostMove) (s : State) : State :=
  match m with
  | .writeReg r v => s.writeReg r v
  | .writeCtl n v => s.storeCtl n v
  | .writePc v => { s with pc := v }
  | .addBreakpoint va => { s with breakpoints := va :: s.breakpoints.filter (fun b => b != va) }
  | .removeBreakpoint va => { s with breakpoints := s.breakpoints.filter (fun b => b != va) }
  | .setStop up => { s with stopFlag := up }
  | .resetCore tlb => s.coreReset tlb

/-- The state after a host move, and none where the core is not stopped (48_engine_step.md R302). -/
def applyHost (m : HostMove) (s : State) : Option State := if s.stopped then some (hostEffect m s) else none

/-- Whether a host move leaves a machine the spec gives a meaning, as far as `pc` and the shape of the TLB go: a written
`pc` is a multiple of 4 (10_state.md R25, R49), and a reset leaves a TLB of the configured size (10_state.md R41). -/
def HostMove.wellFormed (m : HostMove) (c : Config) : Bool :=
  match m with
  | .writePc v => aligned4 v
  | .resetCore tlb => tlb.length == c.tlbSize
  | .writeReg _ _ => true
  | .writeCtl _ _ => true
  | .addBreakpoint _ => true
  | .removeBreakpoint _ => true
  | .setStop _ => true

end Sys2Proof.Machine
end

