-- ==== Sys2Proof/Machine/Run.lean ====
section
/-! DEFINITION. The host's budgeted run (48_engine_step.md R298, R300). The budget is the host's, not the machine's:
`step` knows nothing of it (log 28). The live moves of a run are an argument, one list before each step (R302; log 16). -/

namespace Sys2Proof.Machine

/-- How a run ended. -/
inductive RunEnd where
  /-- It came back to the host, with a reason and the state. -/
  | returned (why : ReturnReason) (s : State)
  /-- It met a state with no step. -/
  | stuck (f : Fault)
  /-- It met a state the model gives no meaning. -/
  | refused (r : Refusal)
deriving DecidableEq, Repr

/-- A run that comes back because its budget is used up. -/
def exitAtBudget (s : State) : RunEnd := .returned .exitedAtBudget (s.returnToHost .exitedAtBudget)

/-- What a run does with one step: it ends where the step returned to the host or has no next state, and else goes on
with `next`. -/
def afterStep (r : Result) (next : State → RunEnd) : RunEnd :=
  match r with
  | .next t =>
    match t.run with
    | .returned why => .returned why t
    | .running => next t
    | .notStarted => next t
  | .fault f => .stuck f
  | .refused r => .refused r

/-- A run that has used its budget and goes on to the next block boundary (48_engine_step.md R298); at most `fuel` steps,
and a block is never longer than `BLOCK_BUDGET` (R295). DESIGN CHOICE (log 28): at a block boundary where the stop flag is up
as well, the run returns with "exited normally at budget", since it takes no further step that could see the flag; R298 and
R300 state no priority between the two reasons. -/
def runToBlockEnd (fuel : Nat) (moves : List (List LiveMove)) (s : State) : RunEnd :=
  match fuel with
  | 0 => exitAtBudget s
  | k + 1 =>
    if s.isBlockBoundary then exitAtBudget s
    else afterStep (step (applyLives (moves.headD []) s)) (runToBlockEnd k moves.tail)

/-- `run-until` with a budget of instructions (48_engine_step.md R300). `moves` are the live moves before each of its steps, in
order; where the list ends no more are made. -/
def runUntil (budget : Nat) (moves : List (List LiveMove)) (s : State) : RunEnd :=
  match budget with
  | 0 => runToBlockEnd s.cfg.blockBudget moves s
  | k + 1 => afterStep (step (applyLives (moves.headD []) s)) (runUntil k moves.tail)

/-- The state `n` steps into a run from `s` under the live moves `moves`, and none where the run has come back to the host, or
has no next state, by then. -/
def stepsOfRun (n : Nat) (moves : List (List LiveMove)) (s : State) : Option State :=
  match n with
  | 0 => some s
  | k + 1 =>
    match step (applyLives (moves.headD []) s) with
    | .next t =>
      match t.run with
      | .running => stepsOfRun k moves.tail t
      | .returned _ => none
      | .notStarted => none
    | .fault _ => none
    | .refused _ => none

/-- Single-step: one step, and back to the host (48_engine_step.md R298). -/
def singleStep (s : State) : RunEnd := afterStep (step s) exitAtBudget

end Sys2Proof.Machine
end

