-- ==== Sys2Proof/Safety.lean ====
section
/-! DEFINITION. The terms claims are stated in: the machine invariant, and what a next state may differ in. -/

namespace Sys2Proof.Machine

/-- What holds at reset and after every step, whatever the program (10_state.md R25, R35, R37, R41, R47;
48_engine_step.md R295(d)). -/
structure MachineInv (s : State) : Prop where
  /-- The parameters are a valid configuration. -/
  config : validConfig s.cfg = true
  /-- `pc` is a multiple of 4 (10_state.md R25). -/
  pcAligned : aligned4 s.pc = true
  /-- Memory is in canonical form. -/
  memory : Memory.wf s.mem = true
  /-- The TLB has `TLB_WAYS x TLB_SETS` entries, and none with no MMU (10_state.md R41). -/
  tlbShape : s.tlb.length = s.cfg.tlbSize
  /-- `pteaddr[1:0]` reads 0 (10_state.md R35). -/
  pteaddrLow : s.pteaddr.extractLsb' 0 2 = 0#2
  /-- `tlbmisc.RD` reads 0 (10_state.md R37). -/
  tlbmiscRdZero : tlbmiscRd s.tlbmisc = false
  /-- A block that has used its budget has ended (48_engine_step.md R295(d)). -/
  blockWithinBudget : s.blockBoundary = true ∨ s.blockCount < s.cfg.blockBudget

/-- What register `q` reads as after `x[r] <- v`, where the write is discarded for a hardwired register 0
(00_scope.md R8). -/
def regAfter (s : State) (r : RegNum) (v : Word) (q : RegNum) : Word :=
  if q = r ∧ s.hardwired r = false then v else s.readReg q

/-- `t` reads as `s` but for register `r`, which reads as `v`. -/
def WritesReg (s t : State) (r : RegNum) (v : Word) : Prop := ∀ q, t.readReg q = regAfter s r v q

/-- No general register reads differently. -/
def KeepsRegs (s t : State) : Prop := ∀ q, t.readReg q = s.readReg q

/-- Every byte of physical memory reads as before. -/
def KeepsMemory (s t : State) : Prop := ∀ a, t.mem.read a = s.mem.read a

/-- Every control register reads as before, `ipending` among them. -/
def KeepsCtl (s t : State) : Prop := ∀ n, t.readCtl n = s.readCtl n

/-- What no instruction touches, and the Engine's counters, are as before: the parameters, the lines, the breakpoint set,
the stop flag (48_engine_step.md R294). -/
structure KeepsInputs (s t : State) : Prop where
  cfg : t.cfg = s.cfg
  lines : t.lines = s.lines
  breakpoints : t.breakpoints = s.breakpoints
  stopFlag : t.stopFlag = s.stopFlag
  blockCount : t.blockCount = s.blockCount
  draws : t.draws = s.draws

/-- All but general registers, `pc` and the block end is as before. -/
structure KeepsRest (s t : State) : Prop where
  ctl : KeepsCtl s t
  tlb : t.tlb = s.tlb
  memory : KeepsMemory s t
  inputs : KeepsInputs s t
  run : t.run = s.run

/-- `i` completes: it writes `v` to register `r`, advances `pc` by 4, ends no block, and changes nothing else
(40_arithmetic_logic.md R140). -/
def Computes (s : State) (i : Instr) (r : RegNum) (v : Word) : Prop :=
  ∃ t, exec i s = .next t ∧ WritesReg s t r v ∧ t.pc = s.pc + 4#32 ∧ t.blockBoundary = s.blockBoundary ∧ KeepsRest s t

/-- `i` completes: it sets `pc` to `target`, ends the block, and changes nothing else. -/
def Transfers (s : State) (i : Instr) (target : Word) : Prop :=
  ∃ t, exec i s = .next t ∧ KeepsRegs s t ∧ t.pc = target ∧ t.blockBoundary = true ∧ KeepsRest s t

/-- `i` completes: it writes `pc + 4` to the link register `x[31]`, sets `pc` to `target`, ends the block, and changes
nothing else. -/
def TransfersAndLinks (s : State) (i : Instr) (target : Word) : Prop :=
  ∃ t, exec i s = .next t ∧ WritesReg s t regRa (s.pc + 4#32) ∧ t.pc = target ∧ t.blockBoundary = true ∧ KeepsRest s t

/-- What every dispatch of `c` from `s` (with `pc` the address given to it) leaves the same or sets the same, first entry
or nested (60_exceptions.md R320, R321): PIE and U clear, EH set, bits 31:3 of `status` kept, the cause in
`exception[6:2]` and its other bits kept, the vector in `pc`, the block ended; memory, TLB and inputs kept. -/
structure EntersHandler (s t : State) (c : Cause) : Prop where
  pie : t.pie = false
  user : t.user = false
  eh : t.eh = true
  statusRest : ∀ k, 3 ≤ k → t.status.getLsbD k = s.status.getLsbD k
  cause : t.exception.extractLsb' 2 5 = c.code
  exceptionRest : ∀ k, k < 2 ∨ 7 ≤ k → t.exception.getLsbD k = s.exception.getLsbD k
  vector : t.pc = if c = .tlbMiss ∧ s.eh = false then s.cfg.fastTlbMissAddr else s.cfg.exceptionAddr
  blockEnds : t.blockBoundary = true
  tlb : t.tlb = s.tlb
  memory : KeepsMemory s t
  inputs : KeepsInputs s t
  run : t.run = s.run

/-- What a dispatch of a cause other than a debug break saves: on first entry the old `status` in `estatus` and
`link` in `x[29]`, nested nothing (60_exceptions.md R320, R322, R325). -/
structure SavesContext (s t : State) (link : Word) : Prop where
  firstStatus : s.eh = false → t.estatus = s.status
  firstLink : s.eh = false → WritesReg s t regEa link
  nestedStatus : s.eh = true → t.estatus = s.estatus
  nestedLink : s.eh = true → KeepsRegs s t
  breakStatus : t.bstatus = s.bstatus

/-- The control registers that only `wrctl` writes in a dispatch without fault record: all but `status`, `estatus`,
`bstatus` and `exception` (10_state.md R50). -/
def KeepsOtherCtl (s t : State) : Prop :=
  ∀ n, n ≠ 0#5 → n ≠ 1#5 → n ≠ 2#5 → n ≠ 7#5 → t.readCtl n = s.readCtl n

/-- `i` takes the exception `c` at its own address, and that is its whole effect: context saved in `estatus` and `x[29]`,
no fault record (60_exceptions.md R320). -/
def Raises (s : State) (i : Instr) (c : Cause) : Prop :=
  ∃ t, exec i s = .next t ∧ EntersHandler s t c ∧ SavesContext s t (s.pc + 4#32) ∧ KeepsOtherCtl s t

/-- What an instruction writes if it raises nothing, by the rows of 10_state.md R50. -/
inductive Role where
  /-- One general register. -/
  | result (r : RegNum)
  /-- Memory. -/
  | store
  /-- `pc`, and on `eret` the status. -/
  | transfer
  /-- `x[31]` and `pc`. -/
  | link
  /-- Nothing of its own: it always raises. -/
  | exception
  /-- A control register. -/
  | control
  /-- Nothing. -/
  | nothing
deriving DecidableEq, Repr

/-- The role of an instruction (10_state.md R50). -/
def roleOf (i : Instr) : Role :=
  match i with
  | .add rc _ _ => .result rc
  | .addi rb _ _ => .result rb
  | .sub rc _ _ => .result rc
  | .mul rc _ _ => .result rc
  | .muli rb _ _ => .result rb
  | .mulxss rc _ _ => .result rc
  | .mulxsu rc _ _ => .result rc
  | .mulxuu rc _ _ => .result rc
  | .div rc _ _ => .result rc
  | .divu rc _ _ => .result rc
  | .and rc _ _ => .result rc
  | .andi rb _ _ => .result rb
  | .andhi rb _ _ => .result rb
  | .or rc _ _ => .result rc
  | .ori rb _ _ => .result rb
  | .orhi rb _ _ => .result rb
  | .xor rc _ _ => .result rc
  | .xori rb _ _ => .result rb
  | .xorhi rb _ _ => .result rb
  | .nor rc _ _ => .result rc
  | .cmpeq rc _ _ => .result rc
  | .cmpne rc _ _ => .result rc
  | .cmpge rc _ _ => .result rc
  | .cmpgeu rc _ _ => .result rc
  | .cmplt rc _ _ => .result rc
  | .cmpltu rc _ _ => .result rc
  | .cmpeqi rb _ _ => .result rb
  | .cmpnei rb _ _ => .result rb
  | .cmpgei rb _ _ => .result rb
  | .cmpgeui rb _ _ => .result rb
  | .cmplti rb _ _ => .result rb
  | .cmpltui rb _ _ => .result rb
  | .sll rc _ _ => .result rc
  | .slli rc _ _ => .result rc
  | .srl rc _ _ => .result rc
  | .srli rc _ _ => .result rc
  | .sra rc _ _ => .result rc
  | .srai rc _ _ => .result rc
  | .rol rc _ _ => .result rc
  | .roli rc _ _ => .result rc
  | .ror rc _ _ => .result rc
  | .ldb rb _ _ => .result rb
  | .ldbu rb _ _ => .result rb
  | .ldh rb _ _ => .result rb
  | .ldhu rb _ _ => .result rb
  | .ldw rb _ _ => .result rb
  | .ldbio rb _ _ => .result rb
  | .ldbuio rb _ _ => .result rb
  | .ldhio rb _ _ => .result rb
  | .ldhuio rb _ _ => .result rb
  | .ldwio rb _ _ => .result rb
  | .stb _ _ _ => .store
  | .sth _ _ _ => .store
  | .stw _ _ _ => .store
  | .stbio _ _ _ => .store
  | .sthio _ _ _ => .store
  | .stwio _ _ _ => .store
  | .br _ => .transfer
  | .beq _ _ _ => .transfer
  | .bne _ _ _ => .transfer
  | .bge _ _ _ => .transfer
  | .bgeu _ _ _ => .transfer
  | .blt _ _ _ => .transfer
  | .bltu _ _ _ => .transfer
  | .call _ => .link
  | .jmpi _ => .transfer
  | .callr _ => .link
  | .jmp _ => .transfer
  | .ret => .transfer
  | .nextpc rc => .result rc
  | .trap _ => .exception
  | .brk _ => .exception
  | .bret => .transfer
  | .eret => .transfer
  | .rdctl rc _ => .result rc
  | .wrctl _ _ => .control
  | .sync => .nothing
  | .flushd _ _ => .nothing
  | .flushda _ _ => .nothing
  | .flushi _ => .nothing
  | .flushp => .nothing
  | .initd _ _ => .nothing
  | .initda _ _ => .nothing
  | .initi _ => .nothing
  | .custom _ => .exception
  | .rdprs _ _ _ => .exception
  | .wrprs _ _ => .exception

/-- Whether an instruction is one of the six stores. -/
def isStoreInstr (i : Instr) : Bool := roleOf i == .store

/-- The general register an instruction writes if it raises nothing: its destination, or `x[31]` for `call` and `callr`
(10_state.md R50). -/
def destinationOf (i : Instr) : Option RegNum :=
  match roleOf i with
  | .result r => some r
  | .link => some regRa
  | .store => none
  | .transfer => none
  | .exception => none
  | .control => none
  | .nothing => none

/-- The causes whose raise records an address in `badaddr` (60_exceptions.md R315). -/
def badaddrCauses : List Cause :=
  [.misalignedDataAddress, .misalignedDestinationAddress, .supervisorInstructionAddress, .supervisorDataAddress, .tlbMiss,
    .tlbPermissionExecute, .tlbPermissionRead, .tlbPermissionWrite]

/-- The instruction `i`, taking `s` to `t`, is one that may change control register `n`: the rows of 10_state.md R50. -/
inductive MayWriteCtl (i : Instr) (s t : State) : RegNum → Prop where
  /-- `wrctl` of that register. -/
  | wrctl (n ra : RegNum) (hi : i = .wrctl n ra) (hu : s.user = false) : MayWriteCtl i s t n
  /-- `status`, by `eret`. -/
  | eretStatus (hi : i = .eret) (h : t.status = s.estatus) : MayWriteCtl i s t 0#5
  /-- `status`, by a dispatch. -/
  | dispatchStatus (c : Cause) (h : EntersHandler s t c) : MayWriteCtl i s t 0#5
  /-- `exception`, by a dispatch. -/
  | dispatchException (c : Cause) (h : EntersHandler s t c) : MayWriteCtl i s t 7#5
  /-- `estatus`, by a first entry that is no debug break. -/
  | firstEntry (c : Cause) (he : s.eh = false) (hc : c ≠ .debugBreak) (h : EntersHandler s t c)
    (hv : t.estatus = s.status) : MayWriteCtl i s t 1#5
  /-- `bstatus`, by the first entry of a debug break. -/
  | firstBreak (he : s.eh = false) (h : EntersHandler s t .debugBreak) (hv : t.bstatus = s.status) : MayWriteCtl i s t 2#5
  /-- `ipending`, which is computed from `ienable`. -/
  | followsIenable (ra : RegNum) (hi : i = .wrctl 3#5 ra) (hu : s.user = false) : MayWriteCtl i s t 4#5
  /-- `pteaddr`, `tlbacc` and `tlbmisc`, by the TLB read. -/
  | tlbRead (n ra : RegNum) (hn : n = 8#5 ∨ n = 9#5 ∨ n = 10#5) (hi : i = .wrctl 10#5 ra) (hu : s.user = false)
    (hm : s.cfg.mmuPresent = true) (hr : tlbmiscRd (s.readReg ra) = true) : MayWriteCtl i s t n
  /-- `tlbmisc.WAY`, by the TLB write. -/
  | tlbWrite (ra : RegNum) (hi : i = .wrctl 9#5 ra) (hu : s.user = false) (hm : s.cfg.mmuPresent = true)
    (hw : tlbmiscWe s.tlbmisc = true) : MayWriteCtl i s t 10#5
  /-- `pteaddr.VPN`, by a TLB miss. -/
  | missPage (h : EntersHandler s t .tlbMiss) : MayWriteCtl i s t 8#5
  /-- `tlbmisc`, by a TLB fault. -/
  | faultBits (c : Cause) (hc : c.tlbRow ≠ .none) (h : EntersHandler s t c) : MayWriteCtl i s t 10#5
  /-- `badaddr`, by a cause that records an address. -/
  | faultAddress (c : Cause) (hc : c ∈ badaddrCauses) (h : EntersHandler s t c) : MayWriteCtl i s t 12#5

/-- The checks of 48_engine_step.md R290 that come before the instruction all let it through: the state has a meaning, no
stop request is seen, no interrupt is taken, and no breakpoint matches `pc`. -/
structure ReadyToExecute (s : State) : Prop where
  meaningful : s.refusal = none
  notStopped : (s.isBlockBoundary && s.stopFlag) = false
  notInterrupted : s.takesInterrupt = false
  noBreakpoint : s.breakpoints.contains s.pc = false

/-- The state `u`, `n` steps into a run from `s`, is the first at or after `budget` steps that stands at a block boundary:
where R298 of 48_engine_step.md lets a run come back whose budget is used up. -/
structure StandsAtFirstBoundary (budget : Nat) (moves : List (List LiveMove)) (s : State) (n : Nat) (u : State) : Prop where
  used : budget ≤ n
  reached : stepsOfRun n moves s = some u
  boundary : u.isBlockBoundary = true
  first : ∀ m v, budget ≤ m → m < n → stepsOfRun m moves s = some v → v.isBlockBoundary = false

/-! ### The form of an instruction's rule -/

/-- Every word whose `OP` is `op` decodes as `d` says, whatever its other bits (30_encoding.md R116, R120). -/
def DecodesPrimary (op : BitVec 6) (d : Word → Decoded) : Prop := ∀ w, fieldOp w = op → decode w = d w

/-- Every word whose `OP` is 0x3A and whose `OPX` is `opx` decodes as `d` says (30_encoding.md R117, R120). -/
def DecodesRegisterForm (opx : BitVec 6) (d : Word → Decoded) : Prop :=
  ∀ w, fieldOp w = 0x3A#6 → fieldOpx w = opx → decode w = d w

/-- The rule of `i rC, rA, rB` with a sub-opcode: in every state it writes `f x[A] x[B]` to `x[C]`. -/
def RegisterRule (opx : BitVec 6) (i : RegNum → RegNum → RegNum → Instr) (f : Word → Word → Word) : Prop :=
  DecodesRegisterForm opx (fun w => .valid (i (fieldC w) (fieldA w) (fieldB w))) ∧
    ∀ s rc ra rb, Computes s (i rc ra rb) rc (f (s.readReg ra) (s.readReg rb))

/-- The rule of `i rB, rA, imm16` with a primary opcode: in every state it writes `f x[A] IMM16` to `x[B]`. -/
def ImmediateRule (op : BitVec 6) (i : RegNum → RegNum → BitVec 16 → Instr) (f : Word → BitVec 16 → Word) : Prop :=
  DecodesPrimary op (fun w => .valid (i (fieldB w) (fieldA w) (fieldImm16 w))) ∧
    ∀ s rb ra imm16, Computes s (i rb ra imm16) rb (f (s.readReg ra) imm16)

/-- The rule of `i rC, rA, rB` that works bit by bit: bit `k` of the result is `g` of bits `k` of the operands. -/
def BitwiseRule (opx : BitVec 6) (i : RegNum → RegNum → RegNum → Instr) (g : Bool → Bool → Bool) : Prop :=
  DecodesRegisterForm opx (fun w => .valid (i (fieldC w) (fieldA w) (fieldB w))) ∧
    ∀ s rc ra rb, ∃ v, Computes s (i rc ra rb) rc v ∧
      ∀ k, k < 32 → v.getLsbD k = g ((s.readReg ra).getLsbD k) ((s.readReg rb).getLsbD k)

/-- Bit `k` of `zext_16(IMM16)`. -/
def lowImmediateBit (imm16 : BitVec 16) (k : Nat) : Bool := decide (k < 16) && imm16.getLsbD k

/-- Bit `k` of `IMM16 ++ 0x0000`. -/
def highImmediateBit (imm16 : BitVec 16) (k : Nat) : Bool := decide (16 ≤ k) && imm16.getLsbD (k - 16)

/-- The rule of `i rB, rA, imm16` that works bit by bit on the immediate whose bit `k` is `m IMM16 k`. -/
def BitwiseImmediateRule (op : BitVec 6) (i : RegNum → RegNum → BitVec 16 → Instr) (m : BitVec 16 → Nat → Bool)
    (g : Bool → Bool → Bool) : Prop :=
  DecodesPrimary op (fun w => .valid (i (fieldB w) (fieldA w) (fieldImm16 w))) ∧
    ∀ s rb ra imm16, ∃ v, Computes s (i rb ra imm16) rb v ∧
      ∀ k, k < 32 → v.getLsbD k = g ((s.readReg ra).getLsbD k) (m imm16 k)

/-- The rule of a shift `i rC, rA, rB`: the amount is `x[B] mod 32` (42_shift_rotate.md R190). -/
def ShiftRule (opx : BitVec 6) (i : RegNum → RegNum → RegNum → Instr) (f : Word → Nat → Word) : Prop :=
  DecodesRegisterForm opx (fun w => .valid (i (fieldC w) (fieldA w) (fieldB w))) ∧
    ∀ s rc ra rb, Computes s (i rc ra rb) rc (f (s.readReg ra) ((s.readReg rb).toNat % 32))

/-- The rule of a shift `i rC, rA, imm5`: the amount is `IMM5` (42_shift_rotate.md R190). -/
def ShiftImmediateRule (opx : BitVec 6) (i : RegNum → RegNum → BitVec 5 → Instr) (f : Word → Nat → Word) : Prop :=
  DecodesRegisterForm opx (fun w => .valid (i (fieldC w) (fieldA w) (fieldImm5 w))) ∧
    ∀ s rc ra imm5, Computes s (i rc ra imm5) rc (f (s.readReg ra) imm5.toNat)

/-- Bits leaving at one end re-enter at the other: bit `k` of the result is bit `(k + n) mod 32` of `a`. -/
def rotated (a : Word) (n : Nat) (v : Word) : Prop := ∀ k, k < 32 → v.getLsbD k = a.getLsbD ((k + n) % 32)

/-- The rule of a load of `n` bytes whose register value is `f` of the bytes at the physical address, lowest first: it
completes when the access passes its checks (20_memory.md R80) and the platform backs it (R60). -/
def LoadRule (op : BitVec 6) (i : RegNum → RegNum → BitVec 16 → Instr) (n : Width) (f : (Nat → Byte) → Word) : Prop :=
  DecodesPrimary op (fun w => .valid (i (fieldB w) (fieldA w) (fieldImm16 w))) ∧
    ∀ s rb ra imm16 pa, s.dataAddress (s.effectiveAddress ra imm16) n .read = .ok pa → s.backsAccess pa n = true →
      Computes s (i rb ra imm16) rb (f (fun k => s.mem.read (byteAddress pa k)))

/-- `t` is `s` after a store of the low `n` bytes of `v` at `pa`: those bytes in memory, every other byte as before,
`pc` advanced by 4, nothing else changed. -/
structure Stored (s t : State) (pa : Word) (n : Width) (v : Word) : Prop where
  inside : ∀ k, k < n.bytes → t.mem.read (byteAddress pa k) = byteOfWord v k
  outside : ∀ a, (∀ k, k < n.bytes → a ≠ byteAddress pa k) → t.mem.read a = s.mem.read a
  wf : t.mem.wf = true
  regs : KeepsRegs s t
  pc : t.pc = s.pc + 4#32
  block : t.blockBoundary = s.blockBoundary
  ctl : KeepsCtl s t
  tlb : t.tlb = s.tlb
  inputs : KeepsInputs s t
  run : t.run = s.run

/-- The rule of a store of `n` bytes. The address stored to is the one the meaning computes: `dataAddress` of
`effectiveAddress`. -/
def StoreRule (op : BitVec 6) (i : RegNum → RegNum → BitVec 16 → Instr) (n : Width) : Prop :=
  DecodesPrimary op (fun w => .valid (i (fieldB w) (fieldA w) (fieldImm16 w))) ∧
    ∀ s rb ra imm16 pa, s.mem.wf = true → s.dataAddress (s.effectiveAddress ra imm16) n .write = .ok pa →
      s.backsAccess pa n = true → ∃ t, exec (i rb ra imm16) s = .next t ∧ Stored s t pa n (s.readReg rb)

/-- `(pc + 4 + sext_16(IMM16 & 0xFFFC)) mod 2^32`: clearing the two low bits of a two's-complement number rounds it down
to a multiple of 4 (44_control_transfer.md R236). -/
def branchDestination (pc : Word) (imm16 : BitVec 16) : Word := BitVec.ofInt 32 (pc.toNat + 4 + imm16.toInt / 4 * 4)

/-- The rule of a conditional branch `i rA, rB, label`: it completes in every state, taken if `p x[A] x[B]`. -/
def BranchRule (op : BitVec 6) (i : RegNum → RegNum → BitVec 16 → Instr) (p : Word → Word → Bool) : Prop :=
  DecodesPrimary op (fun w => .valid (i (fieldA w) (fieldB w) (fieldImm16 w))) ∧
    ∀ s ra rb imm16, Transfers s (i ra rb imm16)
      (if p (s.readReg ra) (s.readReg rb) then branchDestination s.pc imm16 else BitVec.ofNat 32 (s.pc.toNat + 4))

/-- `i` completes: it advances `pc` by 4, ends no block and changes nothing else. -/
def OnlyAdvances (s : State) (i : Instr) : Prop :=
  ∃ t, exec i s = .next t ∧ KeepsRegs s t ∧ t.pc = s.pc + 4#32 ∧ t.blockBoundary = s.blockBoundary ∧ KeepsRest s t

/-! ### Rejected accesses -/

/-- The ten loads, each with its width (43_load_store.md R208 to R217). -/
def loadForms : List ((RegNum → RegNum → BitVec 16 → Instr) × Width) :=
  [(.ldb, .byte), (.ldbu, .byte), (.ldh, .half), (.ldhu, .half), (.ldw, .word), (.ldbio, .byte), (.ldbuio, .byte),
    (.ldhio, .half), (.ldhuio, .half), (.ldwio, .word)]

/-- The six stores, each with its width (43_load_store.md R218 to R223). -/
def storeForms : List ((RegNum → RegNum → BitVec 16 → Instr) × Width) :=
  [(.stb, .byte), (.sth, .half), (.stw, .word), (.stbio, .byte), (.sthio, .half), (.stwio, .word)]

/-- What a rejected access to `va` leaves in the control registers that Dispatch does not save into: `badaddr` holds the
address, a TLB miss leaves the page in `pteaddr.VPN`, and a TLB fault sets `tlbmisc.D`, WE and DBL
(60_exceptions.md R315); everything else is as before. -/
structure RecordsFault (s t : State) (f : MemFault) (k : AccessKind) (va : Word) : Prop where
  badaddr : t.badaddr = va
  vpn : f = .tlbMiss → pteaddrVpn t.pteaddr = va.extractLsb' 12 20
  pteaddrRest : ∀ b, b < 2 ∨ 22 ≤ b → t.pteaddr.getLsbD b = s.pteaddr.getLsbD b
  pteaddrKept : f ≠ .tlbMiss → t.pteaddr = s.pteaddr
  tlbmiscKept : f = .supervisor ∨ f = .misaligned → t.tlbmisc = s.tlbmisc
  dataBit : f = .tlbMiss ∨ f = .tlbPermission → t.tlbmisc.getLsbD 0 = (k != .fetch)
  firstEntry : (f = .tlbMiss ∨ f = .tlbPermission) → s.eh = false →
    tlbmiscWe t.tlbmisc = true ∧ tlbmiscDbl t.tlbmisc = false
  nestedMiss : f = .tlbMiss → s.eh = true →
    tlbmiscWe t.tlbmisc = tlbmiscWe s.tlbmisc ∧ tlbmiscDbl t.tlbmisc = true
  nestedPermission : f = .tlbPermission → s.eh = true →
    tlbmiscWe t.tlbmisc = tlbmiscWe s.tlbmisc ∧ tlbmiscDbl t.tlbmisc = tlbmiscDbl s.tlbmisc
  tlbmiscRest : ∀ b, b ≠ 0 → b ≠ 3 → b ≠ 18 → t.tlbmisc.getLsbD b = s.tlbmisc.getLsbD b
  otherCtl : ∀ n, n ≠ 0#5 → n ≠ 1#5 → n ≠ 2#5 → n ≠ 7#5 → n ≠ 8#5 → n ≠ 10#5 → n ≠ 12#5 → t.readCtl n = s.readCtl n

/-- `t` is `s` after the exception of a rejected access at the instruction being executed: the cause of R63, R70, R74 or
R75, the context saved (R320), the fault recorded (R315); memory and the TLB are as before. -/
def AccessRejected (s t : State) (f : MemFault) (k : AccessKind) (va : Word) : Prop :=
  EntersHandler s t (f.cause k) ∧ SavesContext s t (s.pc + 4#32) ∧ RecordsFault s t f k va

/-- `i`, whose register-sourced target is `target`, raises cause 7 when the target is no multiple of 4: it records the
target in `badaddr` and writes nothing else of its own (44_control_transfer.md R237). -/
def RaisesMisalignedDestination (s : State) (i : Instr) (target : Word) : Prop :=
  ∃ t, exec i s = .next t ∧ EntersHandler s t .misalignedDestinationAddress ∧ SavesContext s t (s.pc + 4#32) ∧
    t.badaddr = target ∧
    ∀ n, n ≠ 0#5 → n ≠ 1#5 → n ≠ 2#5 → n ≠ 7#5 → n ≠ 12#5 → t.readCtl n = s.readCtl n

/-- What a dispatch of a debug break saves: on first entry the old `status` in `bstatus` and `link` in `x[30]`, nested
nothing; `estatus` never (60_exceptions.md R320, R322; 10_state.md R31). -/
structure SavesBreakContext (s t : State) (link : Word) : Prop where
  firstStatus : s.eh = false → t.bstatus = s.status
  firstLink : s.eh = false → WritesReg s t regBa link
  nestedStatus : s.eh = true → t.bstatus = s.bstatus
  nestedLink : s.eh = true → KeepsRegs s t
  estatus : t.estatus = s.estatus

end Sys2Proof.Machine
end

