-- ==== Sys2Proof/Certificates/Slice0/Obligations.lean ====
section
/-! DEFINITION. The statements about the machine, one per obligation. -/

section

open Sys2Proof Sys2Proof.Machine

/-- O1. Decoding the encoded word of any instruction gives that instruction back, and the encoders place the fields by the
formulas of R123 (stated: R123). -/
def Obligations.DecodeOfEncodeIsTheInstruction : Prop :=
  (∀ i : Instr, decode (encode i) = if i.isUnimplemented then .unimplemented i else .valid i) ∧
  (∀ op a b imm16, (encodeI op a b imm16).toNat =
    a.toNat * 2 ^ 27 + b.toNat * 2 ^ 22 + imm16.toNat * 2 ^ 6 + op.toNat) ∧
  (∀ opx a b c imm5, (encodeR opx a b c imm5).toNat =
    a.toNat * 2 ^ 27 + b.toNat * 2 ^ 22 + c.toNat * 2 ^ 17 + opx.toNat * 2 ^ 11 + imm5.toNat * 2 ^ 6 + 0x3A) ∧
  (∀ op imm26, (encodeJ op imm26).toNat = imm26.toNat * 2 ^ 6 + op.toNat)

/-- O2. Each field of an instruction word is cut from the bits that R111, R112 and R113 name (derived: 30_encoding.md). -/
def Obligations.FieldsAreCutFromTheirBits : Prop :=
  ∀ w : Word, (fieldOp w).toNat = w.toNat % 2 ^ 6 ∧ (fieldA w).toNat = w.toNat / 2 ^ 27 ∧
    (fieldB w).toNat = w.toNat / 2 ^ 22 % 2 ^ 5 ∧ (fieldC w).toNat = w.toNat / 2 ^ 17 % 2 ^ 5 ∧
    (fieldOpx w).toNat = w.toNat / 2 ^ 11 % 2 ^ 6 ∧ (fieldImm5 w).toNat = w.toNat / 2 ^ 6 % 2 ^ 5 ∧
    (fieldImm16 w).toNat = w.toNat / 2 ^ 6 % 2 ^ 16 ∧ (fieldImm26 w).toNat = w.toNat / 2 ^ 6

/-- O3. For each of the 64 values of OP, every word with it decodes as the primary table says (stated: R116). -/
def Obligations.PrimaryTableOfDecode : Prop :=
  DecodesPrimary 0x00#6 (fun w => .valid (.call (fieldImm26 w))) ∧
  DecodesPrimary 0x01#6 (fun w => .valid (.jmpi (fieldImm26 w))) ∧
  DecodesPrimary 0x02#6 (fun _ => .illegal (.primaryOpcode 0x02#6)) ∧
  DecodesPrimary 0x03#6 (fun w => .valid (.ldbu (fieldB w) (fieldA w) (fieldImm16 w))) ∧
  DecodesPrimary 0x04#6 (fun w => .valid (.addi (fieldB w) (fieldA w) (fieldImm16 w))) ∧
  DecodesPrimary 0x05#6 (fun w => .valid (.stb (fieldB w) (fieldA w) (fieldImm16 w))) ∧
  DecodesPrimary 0x06#6 (fun w => .valid (.br (fieldImm16 w))) ∧
  DecodesPrimary 0x07#6 (fun w => .valid (.ldb (fieldB w) (fieldA w) (fieldImm16 w))) ∧
  DecodesPrimary 0x08#6 (fun w => .valid (.cmpgei (fieldB w) (fieldA w) (fieldImm16 w))) ∧
  DecodesPrimary 0x09#6 (fun _ => .illegal (.primaryOpcode 0x09#6)) ∧
  DecodesPrimary 0x0A#6 (fun _ => .illegal (.primaryOpcode 0x0A#6)) ∧
  DecodesPrimary 0x0B#6 (fun w => .valid (.ldhu (fieldB w) (fieldA w) (fieldImm16 w))) ∧
  DecodesPrimary 0x0C#6 (fun w => .valid (.andi (fieldB w) (fieldA w) (fieldImm16 w))) ∧
  DecodesPrimary 0x0D#6 (fun w => .valid (.sth (fieldB w) (fieldA w) (fieldImm16 w))) ∧
  DecodesPrimary 0x0E#6 (fun w => .valid (.bge (fieldA w) (fieldB w) (fieldImm16 w))) ∧
  DecodesPrimary 0x0F#6 (fun w => .valid (.ldh (fieldB w) (fieldA w) (fieldImm16 w))) ∧
  DecodesPrimary 0x10#6 (fun w => .valid (.cmplti (fieldB w) (fieldA w) (fieldImm16 w))) ∧
  DecodesPrimary 0x11#6 (fun _ => .illegal (.primaryOpcode 0x11#6)) ∧
  DecodesPrimary 0x12#6 (fun _ => .illegal (.primaryOpcode 0x12#6)) ∧
  DecodesPrimary 0x13#6 (fun w => .valid (.initda (fieldA w) (fieldImm16 w))) ∧
  DecodesPrimary 0x14#6 (fun w => .valid (.ori (fieldB w) (fieldA w) (fieldImm16 w))) ∧
  DecodesPrimary 0x15#6 (fun w => .valid (.stw (fieldB w) (fieldA w) (fieldImm16 w))) ∧
  DecodesPrimary 0x16#6 (fun w => .valid (.blt (fieldA w) (fieldB w) (fieldImm16 w))) ∧
  DecodesPrimary 0x17#6 (fun w => .valid (.ldw (fieldB w) (fieldA w) (fieldImm16 w))) ∧
  DecodesPrimary 0x18#6 (fun w => .valid (.cmpnei (fieldB w) (fieldA w) (fieldImm16 w))) ∧
  DecodesPrimary 0x19#6 (fun _ => .illegal (.primaryOpcode 0x19#6)) ∧
  DecodesPrimary 0x1A#6 (fun _ => .illegal (.primaryOpcode 0x1A#6)) ∧
  DecodesPrimary 0x1B#6 (fun w => .valid (.flushda (fieldA w) (fieldImm16 w))) ∧
  DecodesPrimary 0x1C#6 (fun w => .valid (.xori (fieldB w) (fieldA w) (fieldImm16 w))) ∧
  DecodesPrimary 0x1D#6 (fun _ => .illegal (.primaryOpcode 0x1D#6)) ∧
  DecodesPrimary 0x1E#6 (fun w => .valid (.bne (fieldA w) (fieldB w) (fieldImm16 w))) ∧
  DecodesPrimary 0x1F#6 (fun _ => .illegal (.primaryOpcode 0x1F#6)) ∧
  DecodesPrimary 0x20#6 (fun w => .valid (.cmpeqi (fieldB w) (fieldA w) (fieldImm16 w))) ∧
  DecodesPrimary 0x21#6 (fun _ => .illegal (.primaryOpcode 0x21#6)) ∧
  DecodesPrimary 0x22#6 (fun _ => .illegal (.primaryOpcode 0x22#6)) ∧
  DecodesPrimary 0x23#6 (fun w => .valid (.ldbuio (fieldB w) (fieldA w) (fieldImm16 w))) ∧
  DecodesPrimary 0x24#6 (fun w => .valid (.muli (fieldB w) (fieldA w) (fieldImm16 w))) ∧
  DecodesPrimary 0x25#6 (fun w => .valid (.stbio (fieldB w) (fieldA w) (fieldImm16 w))) ∧
  DecodesPrimary 0x26#6 (fun w => .valid (.beq (fieldA w) (fieldB w) (fieldImm16 w))) ∧
  DecodesPrimary 0x27#6 (fun w => .valid (.ldbio (fieldB w) (fieldA w) (fieldImm16 w))) ∧
  DecodesPrimary 0x28#6 (fun w => .valid (.cmpgeui (fieldB w) (fieldA w) (fieldImm16 w))) ∧
  DecodesPrimary 0x29#6 (fun _ => .illegal (.primaryOpcode 0x29#6)) ∧
  DecodesPrimary 0x2A#6 (fun _ => .illegal (.primaryOpcode 0x2A#6)) ∧
  DecodesPrimary 0x2B#6 (fun w => .valid (.ldhuio (fieldB w) (fieldA w) (fieldImm16 w))) ∧
  DecodesPrimary 0x2C#6 (fun w => .valid (.andhi (fieldB w) (fieldA w) (fieldImm16 w))) ∧
  DecodesPrimary 0x2D#6 (fun w => .valid (.sthio (fieldB w) (fieldA w) (fieldImm16 w))) ∧
  DecodesPrimary 0x2E#6 (fun w => .valid (.bgeu (fieldA w) (fieldB w) (fieldImm16 w))) ∧
  DecodesPrimary 0x2F#6 (fun w => .valid (.ldhio (fieldB w) (fieldA w) (fieldImm16 w))) ∧
  DecodesPrimary 0x30#6 (fun w => .valid (.cmpltui (fieldB w) (fieldA w) (fieldImm16 w))) ∧
  DecodesPrimary 0x31#6 (fun _ => .illegal (.primaryOpcode 0x31#6)) ∧
  DecodesPrimary 0x32#6 (fun w => .unimplemented (.custom (fieldImm26 w))) ∧
  DecodesPrimary 0x33#6 (fun w => .valid (.initd (fieldA w) (fieldImm16 w))) ∧
  DecodesPrimary 0x34#6 (fun w => .valid (.orhi (fieldB w) (fieldA w) (fieldImm16 w))) ∧
  DecodesPrimary 0x35#6 (fun w => .valid (.stwio (fieldB w) (fieldA w) (fieldImm16 w))) ∧
  DecodesPrimary 0x36#6 (fun w => .valid (.bltu (fieldA w) (fieldB w) (fieldImm16 w))) ∧
  DecodesPrimary 0x37#6 (fun w => .valid (.ldwio (fieldB w) (fieldA w) (fieldImm16 w))) ∧
  DecodesPrimary 0x38#6 (fun w => .unimplemented (.rdprs (fieldB w) (fieldA w) (fieldImm16 w))) ∧
  DecodesPrimary 0x39#6 (fun _ => .illegal (.primaryOpcode 0x39#6)) ∧
  DecodesPrimary 0x3A#6 (fun w => decodeRegisterForm w) ∧
  DecodesPrimary 0x3B#6 (fun w => .valid (.flushd (fieldA w) (fieldImm16 w))) ∧
  DecodesPrimary 0x3C#6 (fun w => .valid (.xorhi (fieldB w) (fieldA w) (fieldImm16 w))) ∧
  DecodesPrimary 0x3D#6 (fun _ => .illegal (.primaryOpcode 0x3D#6)) ∧
  DecodesPrimary 0x3E#6 (fun _ => .illegal (.primaryOpcode 0x3E#6)) ∧
  DecodesPrimary 0x3F#6 (fun _ => .illegal (.primaryOpcode 0x3F#6))

/-- O4. For each of the 64 values of OPX, every word with OP = 0x3A and that OPX decodes as the secondary table says
(stated: R117). -/
def Obligations.SecondaryTableOfDecode : Prop :=
  DecodesRegisterForm 0x00#6 (fun _ => .illegal (.subOpcode 0x00#6)) ∧
  DecodesRegisterForm 0x01#6 (fun _ => .valid .eret) ∧
  DecodesRegisterForm 0x02#6 (fun w => .valid (.roli (fieldC w) (fieldA w) (fieldImm5 w))) ∧
  DecodesRegisterForm 0x03#6 (fun w => .valid (.rol (fieldC w) (fieldA w) (fieldB w))) ∧
  DecodesRegisterForm 0x04#6 (fun _ => .valid .flushp) ∧
  DecodesRegisterForm 0x05#6 (fun _ => .valid .ret) ∧
  DecodesRegisterForm 0x06#6 (fun w => .valid (.nor (fieldC w) (fieldA w) (fieldB w))) ∧
  DecodesRegisterForm 0x07#6 (fun w => .valid (.mulxuu (fieldC w) (fieldA w) (fieldB w))) ∧
  DecodesRegisterForm 0x08#6 (fun w => .valid (.cmpge (fieldC w) (fieldA w) (fieldB w))) ∧
  DecodesRegisterForm 0x09#6 (fun _ => .valid .bret) ∧
  DecodesRegisterForm 0x0A#6 (fun _ => .illegal (.subOpcode 0x0A#6)) ∧
  DecodesRegisterForm 0x0B#6 (fun w => .valid (.ror (fieldC w) (fieldA w) (fieldB w))) ∧
  DecodesRegisterForm 0x0C#6 (fun w => .valid (.flushi (fieldA w))) ∧
  DecodesRegisterForm 0x0D#6 (fun w => .valid (.jmp (fieldA w))) ∧
  DecodesRegisterForm 0x0E#6 (fun w => .valid (.and (fieldC w) (fieldA w) (fieldB w))) ∧
  DecodesRegisterForm 0x0F#6 (fun _ => .illegal (.subOpcode 0x0F#6)) ∧
  DecodesRegisterForm 0x10#6 (fun w => .valid (.cmplt (fieldC w) (fieldA w) (fieldB w))) ∧
  DecodesRegisterForm 0x11#6 (fun _ => .illegal (.subOpcode 0x11#6)) ∧
  DecodesRegisterForm 0x12#6 (fun w => .valid (.slli (fieldC w) (fieldA w) (fieldImm5 w))) ∧
  DecodesRegisterForm 0x13#6 (fun w => .valid (.sll (fieldC w) (fieldA w) (fieldB w))) ∧
  DecodesRegisterForm 0x14#6 (fun w => .unimplemented (.wrprs (fieldC w) (fieldA w))) ∧
  DecodesRegisterForm 0x15#6 (fun _ => .illegal (.subOpcode 0x15#6)) ∧
  DecodesRegisterForm 0x16#6 (fun w => .valid (.or (fieldC w) (fieldA w) (fieldB w))) ∧
  DecodesRegisterForm 0x17#6 (fun w => .valid (.mulxsu (fieldC w) (fieldA w) (fieldB w))) ∧
  DecodesRegisterForm 0x18#6 (fun w => .valid (.cmpne (fieldC w) (fieldA w) (fieldB w))) ∧
  DecodesRegisterForm 0x19#6 (fun _ => .illegal (.subOpcode 0x19#6)) ∧
  DecodesRegisterForm 0x1A#6 (fun w => .valid (.srli (fieldC w) (fieldA w) (fieldImm5 w))) ∧
  DecodesRegisterForm 0x1B#6 (fun w => .valid (.srl (fieldC w) (fieldA w) (fieldB w))) ∧
  DecodesRegisterForm 0x1C#6 (fun w => .valid (.nextpc (fieldC w))) ∧
  DecodesRegisterForm 0x1D#6 (fun w => .valid (.callr (fieldA w))) ∧
  DecodesRegisterForm 0x1E#6 (fun w => .valid (.xor (fieldC w) (fieldA w) (fieldB w))) ∧
  DecodesRegisterForm 0x1F#6 (fun w => .valid (.mulxss (fieldC w) (fieldA w) (fieldB w))) ∧
  DecodesRegisterForm 0x20#6 (fun w => .valid (.cmpeq (fieldC w) (fieldA w) (fieldB w))) ∧
  DecodesRegisterForm 0x21#6 (fun _ => .illegal (.subOpcode 0x21#6)) ∧
  DecodesRegisterForm 0x22#6 (fun _ => .illegal (.subOpcode 0x22#6)) ∧
  DecodesRegisterForm 0x23#6 (fun _ => .illegal (.subOpcode 0x23#6)) ∧
  DecodesRegisterForm 0x24#6 (fun w => .valid (.divu (fieldC w) (fieldA w) (fieldB w))) ∧
  DecodesRegisterForm 0x25#6 (fun w => .valid (.div (fieldC w) (fieldA w) (fieldB w))) ∧
  DecodesRegisterForm 0x26#6 (fun w => .valid (.rdctl (fieldC w) (fieldImm5 w))) ∧
  DecodesRegisterForm 0x27#6 (fun w => .valid (.mul (fieldC w) (fieldA w) (fieldB w))) ∧
  DecodesRegisterForm 0x28#6 (fun w => .valid (.cmpgeu (fieldC w) (fieldA w) (fieldB w))) ∧
  DecodesRegisterForm 0x29#6 (fun w => .valid (.initi (fieldA w))) ∧
  DecodesRegisterForm 0x2A#6 (fun _ => .illegal (.subOpcode 0x2A#6)) ∧
  DecodesRegisterForm 0x2B#6 (fun _ => .illegal (.subOpcode 0x2B#6)) ∧
  DecodesRegisterForm 0x2C#6 (fun _ => .illegal (.subOpcode 0x2C#6)) ∧
  DecodesRegisterForm 0x2D#6 (fun w => .valid (.trap (fieldImm5 w))) ∧
  DecodesRegisterForm 0x2E#6 (fun w => .valid (.wrctl (fieldImm5 w) (fieldA w))) ∧
  DecodesRegisterForm 0x2F#6 (fun _ => .illegal (.subOpcode 0x2F#6)) ∧
  DecodesRegisterForm 0x30#6 (fun w => .valid (.cmpltu (fieldC w) (fieldA w) (fieldB w))) ∧
  DecodesRegisterForm 0x31#6 (fun w => .valid (.add (fieldC w) (fieldA w) (fieldB w))) ∧
  DecodesRegisterForm 0x32#6 (fun _ => .illegal (.subOpcode 0x32#6)) ∧
  DecodesRegisterForm 0x33#6 (fun _ => .illegal (.subOpcode 0x33#6)) ∧
  DecodesRegisterForm 0x34#6 (fun w => .valid (.brk (fieldImm5 w))) ∧
  DecodesRegisterForm 0x35#6 (fun _ => .illegal (.subOpcode 0x35#6)) ∧
  DecodesRegisterForm 0x36#6 (fun _ => .valid .sync) ∧
  DecodesRegisterForm 0x37#6 (fun _ => .illegal (.subOpcode 0x37#6)) ∧
  DecodesRegisterForm 0x38#6 (fun _ => .illegal (.subOpcode 0x38#6)) ∧
  DecodesRegisterForm 0x39#6 (fun w => .valid (.sub (fieldC w) (fieldA w) (fieldB w))) ∧
  DecodesRegisterForm 0x3A#6 (fun w => .valid (.srai (fieldC w) (fieldA w) (fieldImm5 w))) ∧
  DecodesRegisterForm 0x3B#6 (fun w => .valid (.sra (fieldC w) (fieldA w) (fieldB w))) ∧
  DecodesRegisterForm 0x3C#6 (fun _ => .illegal (.subOpcode 0x3C#6)) ∧
  DecodesRegisterForm 0x3D#6 (fun _ => .illegal (.subOpcode 0x3D#6)) ∧
  DecodesRegisterForm 0x3E#6 (fun _ => .illegal (.subOpcode 0x3E#6)) ∧
  DecodesRegisterForm 0x3F#6 (fun _ => .illegal (.subOpcode 0x3F#6))

/-- O5. Which instruction a word is depends on OP alone, or on OP and OPX alone in the register form (R120) (derived:
30_encoding.md). -/
def Obligations.UnusedFieldsAreIgnored : Prop :=
  (∀ w v : Word, fieldOp w = fieldOp v → (fieldOp w = 0x3A#6 → fieldOpx w = fieldOpx v) →
    (decode w).instr?.map Instr.ctorIdx = (decode v).instr?.map Instr.ctorIdx) ∧
  (∀ w : Word, fieldOp w = 0x3A#6 → fieldOpx w = 0x05#6 → decode w = .valid .ret) ∧
  (∀ w : Word, fieldOp w = 0x3A#6 → fieldOpx w = 0x01#6 → decode w = .valid .eret) ∧
  (∀ w : Word, fieldOp w = 0x3A#6 → fieldOpx w = 0x09#6 → decode w = .valid .bret)

/-- O6. Ten example words of the spec decode to the instructions they are the examples of (derived: 30_encoding.md,
40_arithmetic_logic.md, 43_load_store.md, 44_control_transfer.md, 45_system.md). -/
def Obligations.SampleWordsDecode : Prop :=
  decode 0x0887883A#32 = .valid (.add 3#5 1#5 2#5) ∧ decode 0x08BFFFC4#32 = .valid (.addi 2#5 1#5 0xFFFF#16) ∧
  decode 0x08BFFFD0#32 = .valid (.cmplti 2#5 1#5 0xFFFF#16) ∧ decode 0x0806913A#32 = .valid (.slli 3#5 1#5 4#5) ∧
  decode 0x08BFFF17#32 = .valid (.ldw 2#5 1#5 0xFFFC#16) ∧ decode 0xD8BFFE15#32 = .valid (.stw 2#5 27#5 0xFFF8#16) ∧
  decode 0x08800226#32 = .valid (.beq 1#5 2#5 8#16) ∧ decode 0x00010000#32 = .valid (.call 0x400#26) ∧
  decode 0x080170FA#32 = .valid (.wrctl 3#5 1#5) ∧ decode 0x00000032#32 = .unimplemented (.custom 0#26)

/-- O7. When the bytes at pc decode to an instruction, step is exec of it with the Engine counters moved on (derived:
48_engine_step.md, 20_memory.md). DEDUCED (log 10): the counters of endStep. -/
def Obligations.StepRunsTheDecodedInstruction : Prop :=
  (∀ s pa i, ReadyToExecute s → s.translate s.pc .fetch = .ok pa → s.backsAccess pa .word = true →
    (decode (s.mem.read (byteAddress pa 3) ++ s.mem.read (byteAddress pa 2) ++ s.mem.read (byteAddress pa 1) ++
      s.mem.read (byteAddress pa 0))).instr? = some i →
    (∀ t, exec i s.beginStep = .next t → step s = .next (s.endStep t)) ∧
    (∀ f, exec i s.beginStep = .fault f → step s = .fault f) ∧
    (∀ r, exec i s.beginStep = .refused r → step s = .refused r)) ∧
  (∀ s : State, s.beginStep = { s with run := .running, blockBoundary := false }) ∧
  (∀ s t : State, s.endStep t =
    { t with
      blockBoundary :=
        t.blockBoundary || decide (s.cfg.blockBudget ≤ (if s.isBlockBoundary then 0 else s.blockCount) + 1)
      blockCount := (if s.isBlockBoundary then 0 else s.blockCount) + 1
      draws := s.draws + 1 })

/-- O8. The illegal words are exactly those of the 18 primary and 22 secondary table dashes, and a step on one takes cause
5 (stated: R118). -/
def Obligations.IllegalWordsRaiseIllegalInstruction : Prop :=
  (∀ w : Word, (decode w).instr? = none ↔
    fieldOp w ∈ ([0x02#6, 0x09#6, 0x0A#6, 0x11#6, 0x12#6, 0x19#6, 0x1A#6, 0x1D#6, 0x1F#6, 0x21#6, 0x22#6,
      0x29#6, 0x2A#6, 0x31#6, 0x39#6, 0x3D#6, 0x3E#6, 0x3F#6] : List (BitVec 6)) ∨
    (fieldOp w = 0x3A#6 ∧ fieldOpx w ∈ ([0x00#6, 0x0A#6, 0x0F#6, 0x11#6, 0x15#6, 0x19#6, 0x21#6, 0x22#6, 0x23#6, 0x2A#6, 0x2B#6,
      0x2C#6, 0x2F#6, 0x32#6, 0x33#6, 0x35#6, 0x37#6, 0x38#6, 0x3C#6, 0x3D#6, 0x3E#6, 0x3F#6] : List (BitVec 6)))) ∧
  (∀ s pa, ReadyToExecute s → s.translate s.pc .fetch = .ok pa → s.backsAccess pa .word = true →
    (decode (s.mem.read (byteAddress pa 3) ++ s.mem.read (byteAddress pa 2) ++ s.mem.read (byteAddress pa 1) ++
      s.mem.read (byteAddress pa 0))).instr? = none →
    ∃ t, step s = .next (s.endStep t) ∧ EntersHandler s.beginStep t .illegalInstruction ∧
      SavesContext s.beginStep t (s.pc + 4#32) ∧ KeepsOtherCtl s.beginStep t)

/-- O9. A fetch translates pc with kind X and reads four bytes little-endian, or takes cause 9, 12 or 13 with badaddr = pc
(stated: R81). -/
def Obligations.FetchReadsTranslatesAndFaults : Prop :=
  (∀ (s : State) pa, s.translate s.pc .fetch = .ok pa → s.backsAccess pa .word = true →
    s.fetchWord = .word (s.mem.read (byteAddress pa 3) ++ s.mem.read (byteAddress pa 2) ++
      s.mem.read (byteAddress pa 1) ++ s.mem.read (byteAddress pa 0))) ∧
  (∀ s f, ReadyToExecute s → s.translate s.pc .fetch = .error f →
    (f.cause .fetch).code ∈ [9#5, 12#5, 13#5] ∧
    ∃ t, step s = .next (s.endStep t) ∧ AccessRejected s.beginStep t f .fetch s.pc)

/-- O10. withFetchWord places exactly the instruction that the next step runs (derived: 48_engine_step.md, 20_memory.md). -/
def Obligations.PlacedInstructionRunsNext : Prop :=
  ∀ s pa i, ReadyToExecute s → s.mem.wf = true → s.translate s.pc .fetch = .ok pa → s.backsAccess pa .word = true →
    s.withFetchWord 32 (encode i).toNat = { s with mem := (s.withFetchWord 32 (encode i).toNat).mem } ∧
    step (s.withFetchWord 32 (encode i).toNat) =
      mapNext (s.withFetchWord 32 (encode i).toNat).endStep (exec i (s.withFetchWord 32 (encode i).toNat).beginStep)

/-- O11. add, addi and sub complete in every state with the result modulo 2^32 and change nothing else (stated: R142,
R143, R144). -/
def Obligations.AddAndSubtractResults : Prop :=
  RegisterRule 0x31#6 .add (fun a b => BitVec.ofNat 32 (a.toNat + b.toNat)) ∧
  ImmediateRule 0x04#6 .addi (fun a imm16 => BitVec.ofInt 32 (a.toInt + imm16.toInt)) ∧
  RegisterRule 0x39#6 .sub (fun a b => BitVec.ofInt 32 (a.toInt - b.toInt))

/-- O12. mul, muli, mulxss, mulxsu and mulxuu complete in every state with the low or high word of the exact product
(stated: R145, R146, R147, R148, R149). -/
def Obligations.MultiplyResults : Prop :=
  RegisterRule 0x27#6 .mul (fun a b => BitVec.ofNat 32 (a.toNat * b.toNat)) ∧
  ImmediateRule 0x24#6 .muli (fun a imm16 => BitVec.ofInt 32 (a.toInt * imm16.toInt)) ∧
  RegisterRule 0x1F#6 .mulxss (fun a b => BitVec.ofInt 32 (a.toInt * b.toInt / 2 ^ 32)) ∧
  RegisterRule 0x17#6 .mulxsu (fun a b => BitVec.ofInt 32 (a.toInt * (b.toNat : Int) / 2 ^ 32)) ∧
  RegisterRule 0x07#6 .mulxuu (fun a b => BitVec.ofNat 32 (a.toNat * b.toNat / 2 ^ 32))

/-- O13. div and divu complete in every state with the truncated or floored quotient, or DivCorner in the undefined
corners (stated: R150, R151). -/
def Obligations.DivideResults : Prop :=
  RegisterRule 0x25#6 .div (fun a b =>
    if b.toInt = 0 ∨ (a.toInt = -2 ^ 31 ∧ b.toInt = -1) then Config.divCorner .div a b
    else BitVec.ofInt 32 (Int.tdiv a.toInt b.toInt)) ∧
  RegisterRule 0x24#6 .divu (fun a b =>
    if b.toNat = 0 then Config.divCorner .divu a b else BitVec.ofNat 32 (a.toNat / b.toNat))

/-- O14. and, or, xor and nor complete in every state and act bit by bit on all 32 bits (stated: R152, R155, R158, R161). -/
def Obligations.LogicalRegisterResults : Prop :=
  BitwiseRule 0x0E#6 .and (fun p q => p && q) ∧ BitwiseRule 0x16#6 .or (fun p q => p || q) ∧
  BitwiseRule 0x1E#6 .xor (fun p q => p ^^ q) ∧ BitwiseRule 0x06#6 .nor (fun p q => !(p || q))

/-- O15. andi, andhi, ori, orhi, xori and xorhi complete in every state and act bit by bit with the low or high immediate
(stated: R153, R154, R156, R157, R159, R160). -/
def Obligations.LogicalImmediateResults : Prop :=
  BitwiseImmediateRule 0x0C#6 .andi lowImmediateBit (fun p q => p && q) ∧
  BitwiseImmediateRule 0x2C#6 .andhi highImmediateBit (fun p q => p && q) ∧
  BitwiseImmediateRule 0x14#6 .ori lowImmediateBit (fun p q => p || q) ∧
  BitwiseImmediateRule 0x34#6 .orhi highImmediateBit (fun p q => p || q) ∧
  BitwiseImmediateRule 0x1C#6 .xori lowImmediateBit (fun p q => p ^^ q) ∧
  BitwiseImmediateRule 0x3C#6 .xorhi highImmediateBit (fun p q => p ^^ q)

/-- O16. The six register comparisons complete in every state and write 1 if the relation holds and 0 otherwise (stated:
R171, R172, R173, R174, R175, R176). -/
def Obligations.CompareRegisterResults : Prop :=
  RegisterRule 0x20#6 .cmpeq (fun a b => if a = b then 1#32 else 0#32) ∧
  RegisterRule 0x18#6 .cmpne (fun a b => if a ≠ b then 1#32 else 0#32) ∧
  RegisterRule 0x08#6 .cmpge (fun a b => if a.toInt ≥ b.toInt then 1#32 else 0#32) ∧
  RegisterRule 0x28#6 .cmpgeu (fun a b => if a.toNat ≥ b.toNat then 1#32 else 0#32) ∧
  RegisterRule 0x10#6 .cmplt (fun a b => if a.toInt < b.toInt then 1#32 else 0#32) ∧
  RegisterRule 0x30#6 .cmpltu (fun a b => if a.toNat < b.toNat then 1#32 else 0#32)

/-- O17. The six immediate comparisons complete in every state, with a sign-extended immediate but for cmpgeui and cmpltui
(stated: R177, R178, R179, R180, R181, R182). -/
def Obligations.CompareImmediateResults : Prop :=
  ImmediateRule 0x20#6 .cmpeqi (fun a imm16 => if a.toInt = imm16.toInt then 1#32 else 0#32) ∧
  ImmediateRule 0x18#6 .cmpnei (fun a imm16 => if a.toInt ≠ imm16.toInt then 1#32 else 0#32) ∧
  ImmediateRule 0x08#6 .cmpgei (fun a imm16 => if a.toInt ≥ imm16.toInt then 1#32 else 0#32) ∧
  ImmediateRule 0x28#6 .cmpgeui (fun a imm16 => if a.toNat ≥ imm16.toNat then 1#32 else 0#32) ∧
  ImmediateRule 0x10#6 .cmplti (fun a imm16 => if a.toInt < imm16.toInt then 1#32 else 0#32) ∧
  ImmediateRule 0x30#6 .cmpltui (fun a imm16 => if a.toNat < imm16.toNat then 1#32 else 0#32)

/-- O18. sll, slli, srl, srli, sra and srai complete in every state with the shifted value (stated: R191, R192, R193,
R194, R195, R196). -/
def Obligations.ShiftResults : Prop :=
  ShiftRule 0x13#6 .sll (fun a n => BitVec.ofNat 32 (a.toNat * 2 ^ n)) ∧
  ShiftImmediateRule 0x12#6 .slli (fun a n => BitVec.ofNat 32 (a.toNat * 2 ^ n)) ∧
  ShiftRule 0x1B#6 .srl (fun a n => BitVec.ofNat 32 (a.toNat / 2 ^ n)) ∧
  ShiftImmediateRule 0x1A#6 .srli (fun a n => BitVec.ofNat 32 (a.toNat / 2 ^ n)) ∧
  ShiftRule 0x3B#6 .sra (fun a n => BitVec.ofInt 32 (a.toInt / 2 ^ n)) ∧
  ShiftImmediateRule 0x3A#6 .srai (fun a n => BitVec.ofInt 32 (a.toInt / 2 ^ n))

/-- O19. rol, roli and ror complete in every state: every bit of x[A] moves round by the amount (stated: R197, R198,
R199). -/
def Obligations.RotateResults : Prop :=
  DecodesRegisterForm 0x03#6 (fun w => .valid (.rol (fieldC w) (fieldA w) (fieldB w))) ∧
  DecodesRegisterForm 0x02#6 (fun w => .valid (.roli (fieldC w) (fieldA w) (fieldImm5 w))) ∧
  DecodesRegisterForm 0x0B#6 (fun w => .valid (.ror (fieldC w) (fieldA w) (fieldB w))) ∧
  (∀ s rc ra rb, ∃ v, Computes s (.rol rc ra rb) rc v ∧
    rotated (s.readReg ra) (32 - (s.readReg rb).toNat % 32) v) ∧
  (∀ s rc ra imm5, ∃ v, Computes s (.roli rc ra imm5) rc v ∧ rotated (s.readReg ra) (32 - imm5.toNat) v) ∧
  (∀ s rc ra rb, ∃ v, Computes s (.ror rc ra rb) rc v ∧ rotated (s.readReg ra) ((s.readReg rb).toNat % 32) v)

/-- O20. Each of the ten loads completes when its access passes the checks, with the little-endian value sign- or zero-
extended (stated: R208, R209, R210, R211, R212, R213, R214, R215, R216, R217). -/
def Obligations.LoadResults : Prop :=
  (∀ (s : State) ra (imm16 : BitVec 16), s.effectiveAddress ra imm16 =
    BitVec.ofInt 32 ((s.readReg ra).toNat + imm16.toInt)) ∧
  (∀ (s : State) va k, s.dataAddress va .byte k ≠ .error .misaligned) ∧
  (∀ (s : State) va k, va.toNat % 2 ≠ 0 → s.supervisorViolation va = false → s.dataAddress va .half k = .error .misaligned) ∧
  (∀ (s : State) va k, va.toNat % 4 ≠ 0 → s.supervisorViolation va = false → s.dataAddress va .word k = .error .misaligned) ∧
  LoadRule 0x07#6 .ldb .byte (fun b => (b 0).signExtend 32) ∧
  LoadRule 0x03#6 .ldbu .byte (fun b => (b 0).setWidth 32) ∧
  LoadRule 0x0F#6 .ldh .half (fun b => (b 1 ++ b 0).signExtend 32) ∧
  LoadRule 0x0B#6 .ldhu .half (fun b => (b 1 ++ b 0).setWidth 32) ∧
  LoadRule 0x17#6 .ldw .word (fun b => b 3 ++ b 2 ++ b 1 ++ b 0) ∧
  LoadRule 0x27#6 .ldbio .byte (fun b => (b 0).signExtend 32) ∧
  LoadRule 0x23#6 .ldbuio .byte (fun b => (b 0).setWidth 32) ∧
  LoadRule 0x2F#6 .ldhio .half (fun b => (b 1 ++ b 0).signExtend 32) ∧
  LoadRule 0x2B#6 .ldhuio .half (fun b => (b 1 ++ b 0).setWidth 32) ∧
  LoadRule 0x37#6 .ldwio .word (fun b => b 3 ++ b 2 ++ b 1 ++ b 0)

/-- O21. Each of the six stores completes when its access passes the checks, writes exactly its bytes and changes nothing
else (stated: R218, R219, R220, R221, R222, R223). -/
def Obligations.StoreResults : Prop :=
  (∀ (s : State) ra (imm16 : BitVec 16), s.effectiveAddress ra imm16 =
    BitVec.ofInt 32 ((s.readReg ra).toNat + imm16.toInt)) ∧
  (∀ (v : Word) k, k < 4 → (byteOfWord v k).toNat = v.toNat / 2 ^ (8 * k) % 2 ^ 8) ∧
  (∀ (s : State) va k, s.dataAddress va .byte k ≠ .error .misaligned) ∧
  (∀ (s : State) va k, va.toNat % 2 ≠ 0 → s.supervisorViolation va = false → s.dataAddress va .half k = .error .misaligned) ∧
  (∀ (s : State) va k, va.toNat % 4 ≠ 0 → s.supervisorViolation va = false → s.dataAddress va .word k = .error .misaligned) ∧
  StoreRule 0x05#6 .stb .byte ∧ StoreRule 0x0D#6 .sth .half ∧ StoreRule 0x15#6 .stw .word ∧
  StoreRule 0x25#6 .stbio .byte ∧ StoreRule 0x2D#6 .sthio .half ∧ StoreRule 0x35#6 .stwio .word

/-- O22. The eight io forms do exactly what the forms without io do, in every state (stated: R206). -/
def Obligations.IoFormsBehaveAsThePlainForms : Prop :=
  ∀ (s : State) (rb ra : RegNum) (imm16 : BitVec 16),
    exec (.ldbio rb ra imm16) s = exec (.ldb rb ra imm16) s ∧ exec (.ldbuio rb ra imm16) s = exec (.ldbu rb ra imm16) s ∧
    exec (.ldhio rb ra imm16) s = exec (.ldh rb ra imm16) s ∧ exec (.ldhuio rb ra imm16) s = exec (.ldhu rb ra imm16) s ∧
    exec (.ldwio rb ra imm16) s = exec (.ldw rb ra imm16) s ∧ exec (.stbio rb ra imm16) s = exec (.stb rb ra imm16) s ∧
    exec (.sthio rb ra imm16) s = exec (.sth rb ra imm16) s ∧ exec (.stwio rb ra imm16) s = exec (.stw rb ra imm16) s

/-- O23. A data access is checked for supervisor violation, then alignment, then translation, and the first failure is
reported (R80) (derived: 20_memory.md). -/
def Obligations.DataAccessChecksInOrder : Prop :=
  ∀ (s : State) va n k, s.dataAddress va n k =
    if s.cfg.mmuPresent = true ∧ s.cfg.kernelPhysBase.toNat ≤ va.toNat ∧ s.user = true then .error .supervisor
    else if va.toNat % n.bytes ≠ 0 then .error .misaligned
    else s.translate va k

/-- O24. A load or store whose access is rejected takes the exception of the rejection and records the fault, with memory
untouched (derived: 20_memory.md, 60_exceptions.md, 43_load_store.md). -/
def Obligations.RejectedDataAccessTakesItsException : Prop :=
  (∀ p ∈ loadForms, ∀ s rb ra imm16 f, s.dataAddress (s.effectiveAddress ra imm16) p.2 .read = .error f →
    (f.cause .read).code ∈ [6#5, 11#5, 12#5, 14#5] ∧
    ∃ t, exec (p.1 rb ra imm16) s = .next t ∧ AccessRejected s t f .read (s.effectiveAddress ra imm16)) ∧
  (∀ p ∈ storeForms, ∀ s rb ra imm16 f, s.dataAddress (s.effectiveAddress ra imm16) p.2 .write = .error f →
    (f.cause .write).code ∈ [6#5, 11#5, 12#5, 15#5] ∧
    ∃ t, exec (p.1 rb ra imm16) s = .next t ∧ AccessRejected s t f .write (s.effectiveAddress ra imm16)) ∧
  (∀ f k, (MemFault.cause f k).code = match f, k with
    | .supervisor, .fetch => 9#5
    | .supervisor, .read => 11#5
    | .supervisor, .write => 11#5
    | .misaligned, _ => 6#5
    | .tlbMiss, _ => 12#5
    | .tlbPermission, .fetch => 13#5
    | .tlbPermission, .read => 14#5
    | .tlbPermission, .write => 15#5)

/-- O25. A load, a store or a fetch that passes its checks at an address the platform does not back has no step (derived:
20_memory.md, 93_implementation_defined.md). DEDUCED (log 6): an access partly unbacked is not done in part. -/
def Obligations.UnbackedAccessIsStuck : Prop :=
  (∀ p ∈ loadForms, ∀ s rb ra imm16 pa, s.dataAddress (s.effectiveAddress ra imm16) p.2 .read = .ok pa →
    s.backsAccess pa p.2 = false → exec (p.1 rb ra imm16) s = .fault (.unbackedAddress pa)) ∧
  (∀ p ∈ storeForms, ∀ s rb ra imm16 pa, s.dataAddress (s.effectiveAddress ra imm16) p.2 .write = .ok pa →
    s.backsAccess pa p.2 = false → exec (p.1 rb ra imm16) s = .fault (.unbackedAddress pa)) ∧
  (∀ s pa, ReadyToExecute s → s.translate s.pc .fetch = .ok pa → s.backsAccess pa .word = false →
    step s = .fault (.unbackedAddress pa)) ∧
  (∀ (s : State) pa n, s.backsAccess pa n = true ↔
    ∀ k, k < n.bytes → ∃ r ∈ s.cfg.backed, r.base ≤ byteAddress pa k ∧ byteAddress pa k < r.base + r.size)

/-- O26. Translation is the identity with no MMU and in the kernel-physical band in supervisor mode, a violation there in
user mode, and the TLB below it (stated: R67, R69). -/
def Obligations.TranslationByBand : Prop :=
  ∀ (s : State) va k,
    (s.cfg.mmuPresent = false → s.translate va k = .ok va) ∧
    (s.cfg.mmuPresent = true → s.cfg.kernelPhysBase.toNat ≤ va.toNat → s.user = false → s.translate va k = .ok va) ∧
    (s.cfg.mmuPresent = true → s.cfg.kernelPhysBase.toNat ≤ va.toNat → s.user = true →
      s.translate va k = .error .supervisor) ∧
    (s.cfg.mmuPresent = true → va.toNat < s.cfg.kernelPhysBase.toNat → s.translate va k = s.tlbTranslate va k)

/-- O27. The TLB misses exactly when no way matches, and otherwise translates through a matching way if that entry permits
the kind (stated: R71, R73). -/
def Obligations.TlbLookupUsesAMatchingWay : Prop :=
  ∀ (s : State) va k,
    ((¬ ∃ way, way < s.cfg.tlbWays ∧ (s.tlbEntry way (va.toNat / 2 ^ 12 % s.cfg.tlbSets)).vpn = va.extractLsb' 12 20 ∧
        ((s.tlbEntry way (va.toNat / 2 ^ 12 % s.cfg.tlbSets)).g = true ∨
          (s.tlbEntry way (va.toNat / 2 ^ 12 % s.cfg.tlbSets)).pid = s.tlbmisc.extractLsb' 4 14)) →
      s.tlbTranslate va k = .error .tlbMiss) ∧
    ((∃ way, way < s.cfg.tlbWays ∧ (s.tlbEntry way (va.toNat / 2 ^ 12 % s.cfg.tlbSets)).vpn = va.extractLsb' 12 20 ∧
        ((s.tlbEntry way (va.toNat / 2 ^ 12 % s.cfg.tlbSets)).g = true ∨
          (s.tlbEntry way (va.toNat / 2 ^ 12 % s.cfg.tlbSets)).pid = s.tlbmisc.extractLsb' 4 14)) →
      ∃ way e, way < s.cfg.tlbWays ∧ e = s.tlbEntry way (va.toNat / 2 ^ 12 % s.cfg.tlbSets) ∧
        e.vpn = va.extractLsb' 12 20 ∧ (e.g = true ∨ e.pid = s.tlbmisc.extractLsb' 4 14) ∧
        s.tlbTranslate va k =
          if (k = .read ∧ e.r = false) ∨ (k = .write ∧ e.w = false) ∨ (k = .fetch ∧ e.x = false)
          then .error .tlbPermission else .ok (e.pfn ++ va.extractLsb' 0 12))

/-- O28. wrctl tlbacc with an MMU completes in supervisor mode, and with WE = 1 writes the entry that tlbacc, VPN and PID
describe and moves WAY on (stated: R76). -/
def Obligations.WrctlTlbaccWritesATlbEntry : Prop :=
  ∀ s ra, MachineInv s → s.cfg.mmuPresent = true → s.user = false →
    ∃ t, exec (.wrctl 9#5 ra) s = .next t ∧ KeepsRegs s t ∧ t.pc = s.pc + 4#32 ∧ t.blockBoundary = true ∧
      KeepsMemory s t ∧ KeepsInputs s t ∧ t.run = s.run ∧
      t.tlbacc = s.readReg ra ∧ (∀ n, n ≠ 9#5 → n ≠ 10#5 → t.readCtl n = s.readCtl n) ∧
      (s.tlbmisc.getLsbD 18 = false → t.tlb = s.tlb ∧ t.tlbmisc = s.tlbmisc) ∧
      (s.tlbmisc.getLsbD 18 = true → ∃ way set e,
        way = (s.tlbmisc.extractLsb' 20 4).toNat % s.cfg.tlbWays ∧
        set = (s.pteaddr.extractLsb' 2 20).toNat % s.cfg.tlbSets ∧
        e = t.tlbEntry way set ∧ e.vpn = s.pteaddr.extractLsb' 2 20 ∧ e.pid = s.tlbmisc.extractLsb' 4 14 ∧
        e.pfn = (s.readReg ra).extractLsb' 0 20 ∧ e.c = (s.readReg ra).getLsbD 24 ∧ e.r = (s.readReg ra).getLsbD 23 ∧
        e.w = (s.readReg ra).getLsbD 22 ∧ e.x = (s.readReg ra).getLsbD 21 ∧ e.g = (s.readReg ra).getLsbD 20 ∧
        (∀ way' set', way' < s.cfg.tlbWays → set' < s.cfg.tlbSets → (way' ≠ way ∨ set' ≠ set) →
          t.tlbEntry way' set' = s.tlbEntry way' set') ∧
        (t.tlbmisc.extractLsb' 20 4).toNat = (way + 1) % s.cfg.tlbWays ∧
        (∀ b, b < 20 ∨ 24 ≤ b → t.tlbmisc.getLsbD b = s.tlbmisc.getLsbD b))

/-- O29. wrctl tlbmisc with RD = 1 and an MMU completes in supervisor mode and reads the selected TLB entry into tlbacc,
PID and VPN (stated: R77). -/
def Obligations.WrctlTlbmiscReadsATlbEntry : Prop :=
  ∀ s ra, s.cfg.mmuPresent = true → s.user = false →
    ∃ t, exec (.wrctl 10#5 ra) s = .next t ∧ KeepsRegs s t ∧ t.pc = s.pc + 4#32 ∧ t.blockBoundary = true ∧
      KeepsMemory s t ∧ KeepsInputs s t ∧ t.run = s.run ∧ t.tlb = s.tlb ∧
      (∀ n, n ≠ 8#5 → n ≠ 9#5 → n ≠ 10#5 → t.readCtl n = s.readCtl n) ∧
      ((s.readReg ra).getLsbD 19 = false → t.tlbmisc = s.readReg ra ∧ t.tlbacc = s.tlbacc ∧ t.pteaddr = s.pteaddr) ∧
      ((s.readReg ra).getLsbD 19 = true → ∃ e,
        e = s.tlbEntry (((s.readReg ra).extractLsb' 20 4).toNat % s.cfg.tlbWays)
          ((s.pteaddr.extractLsb' 2 20).toNat % s.cfg.tlbSets) ∧
        t.tlbacc.extractLsb' 0 20 = e.pfn ∧ t.tlbacc.getLsbD 20 = e.g ∧ t.tlbacc.getLsbD 21 = e.x ∧
        t.tlbacc.getLsbD 22 = e.w ∧ t.tlbacc.getLsbD 23 = e.r ∧ t.tlbacc.getLsbD 24 = e.c ∧
        (∀ b, 25 ≤ b → t.tlbacc.getLsbD b = s.tlbacc.getLsbD b) ∧
        t.tlbmisc.extractLsb' 4 14 = e.pid ∧ t.tlbmisc.getLsbD 19 = false ∧
        (∀ b, b ≠ 19 → b < 4 ∨ 18 ≤ b → t.tlbmisc.getLsbD b = (s.readReg ra).getLsbD b) ∧
        t.pteaddr.extractLsb' 2 20 = e.vpn ∧
        (∀ b, b < 2 ∨ 22 ≤ b → t.pteaddr.getLsbD b = s.pteaddr.getLsbD b))

/-- O30. br and the six conditional branches complete in every state, at the target if the relation holds and at pc + 4
otherwise (stated: R239, R240, R241, R242, R243, R244, R245, R236). -/
def Obligations.BranchResults : Prop :=
  DecodesPrimary 0x06#6 (fun w => .valid (.br (fieldImm16 w))) ∧
  (∀ s imm16, Transfers s (.br imm16) (branchDestination s.pc imm16)) ∧
  (∀ (pc : Word) imm16, pc.toNat % 4 = 0 → (branchDestination pc imm16).toNat % 4 = 0) ∧
  BranchRule 0x26#6 .beq (fun a b => a == b) ∧ BranchRule 0x1E#6 .bne (fun a b => a != b) ∧
  BranchRule 0x0E#6 .bge (fun a b => decide (a.toInt ≥ b.toInt)) ∧
  BranchRule 0x2E#6 .bgeu (fun a b => decide (a.toNat ≥ b.toNat)) ∧
  BranchRule 0x16#6 .blt (fun a b => decide (a.toInt < b.toInt)) ∧
  BranchRule 0x36#6 .bltu (fun a b => decide (a.toNat < b.toNat))

/-- O31. call, jmpi and nextpc complete in every state: absolute target with or without link, and pc + 4 into a register
(stated: R246, R247, R251). -/
def Obligations.CallJmpiAndNextpcResults : Prop :=
  DecodesPrimary 0x00#6 (fun w => .valid (.call (fieldImm26 w))) ∧
  DecodesPrimary 0x01#6 (fun w => .valid (.jmpi (fieldImm26 w))) ∧
  DecodesRegisterForm 0x1C#6 (fun w => .valid (.nextpc (fieldC w))) ∧
  (∀ s imm26, TransfersAndLinks s (.call imm26) (BitVec.ofNat 32 (s.pc.toNat / 2 ^ 28 * 2 ^ 28 + imm26.toNat * 4))) ∧
  (∀ s imm26, Transfers s (.jmpi imm26) (BitVec.ofNat 32 (s.pc.toNat / 2 ^ 28 * 2 ^ 28 + imm26.toNat * 4))) ∧
  (∀ s rc, Computes s (.nextpc rc) rc (BitVec.ofNat 32 (s.pc.toNat + 4)))

/-- O32. callr, jmp and ret go to the register value when it is a multiple of 4, and raise cause 7 with nothing written
when it is not (stated: R248, R249, R250). -/
def Obligations.RegisterJumpResults : Prop :=
  DecodesRegisterForm 0x1D#6 (fun w => .valid (.callr (fieldA w))) ∧
  DecodesRegisterForm 0x0D#6 (fun w => .valid (.jmp (fieldA w))) ∧ DecodesRegisterForm 0x05#6 (fun _ => .valid .ret) ∧
  (∀ s ra, (s.readReg ra).toNat % 4 = 0 → TransfersAndLinks s (.callr ra) (s.readReg ra)) ∧
  (∀ s ra, (s.readReg ra).toNat % 4 = 0 → Transfers s (.jmp ra) (s.readReg ra)) ∧
  (∀ s : State, (s.readReg 31#5).toNat % 4 = 0 → Transfers s .ret (s.readReg 31#5)) ∧
  (∀ s ra, (s.readReg ra).toNat % 4 ≠ 0 → RaisesMisalignedDestination s (.callr ra) (s.readReg ra)) ∧
  (∀ s ra, (s.readReg ra).toNat % 4 ≠ 0 → RaisesMisalignedDestination s (.jmp ra) (s.readReg ra)) ∧
  (∀ s : State, (s.readReg 31#5).toNat % 4 ≠ 0 → RaisesMisalignedDestination s .ret (s.readReg 31#5))

/-- O33. trap takes cause 3 and custom, rdprs and wrprs take cause 4, in every state and mode, and that is their whole
effect (stated: R261, R275, R276, R277). -/
def Obligations.TrapAndUnimplementedSlotsTakeTheirCause : Prop :=
  DecodesRegisterForm 0x2D#6 (fun w => .valid (.trap (fieldImm5 w))) ∧
  DecodesPrimary 0x32#6 (fun w => .unimplemented (.custom (fieldImm26 w))) ∧
  DecodesPrimary 0x38#6 (fun w => .unimplemented (.rdprs (fieldB w) (fieldA w) (fieldImm16 w))) ∧
  DecodesRegisterForm 0x14#6 (fun w => .unimplemented (.wrprs (fieldC w) (fieldA w))) ∧
  Cause.trap.code = 3#5 ∧ Cause.unimplementedInstruction.code = 4#5 ∧
  (∀ s imm5, Raises s (.trap imm5) .trap) ∧ (∀ s payload, Raises s (.custom payload) .unimplementedInstruction) ∧
  (∀ s rb ra imm16, Raises s (.rdprs rb ra imm16) .unimplementedInstruction) ∧
  (∀ s rc ra, Raises s (.wrprs rc ra) .unimplementedInstruction)

/-- O34. break takes cause 31 and saves into bstatus and x[30], or with HOST_INTERCEPTS_DEBUG changes nothing and returns
to the host (stated: R262). -/
def Obligations.BreakTakesTheDebugCauseOrReturnsToTheHost : Prop :=
  DecodesRegisterForm 0x34#6 (fun w => .valid (.brk (fieldImm5 w))) ∧ Cause.debugBreak.code = 31#5 ∧
  (∀ s imm5, s.cfg.hostInterceptsDebug = false → ∃ t, exec (.brk imm5) s = .next t ∧ EntersHandler s t .debugBreak ∧
    SavesBreakContext s t (s.pc + 4#32) ∧ KeepsOtherCtl s t) ∧
  (∀ s imm5, s.cfg.hostInterceptsDebug = true → ∃ t, exec (.brk imm5) s = .next t ∧ KeepsRegs s t ∧ t.pc = s.pc ∧
    KeepsCtl s t ∧ t.tlb = s.tlb ∧ KeepsMemory s t ∧ KeepsInputs s t ∧ t.blockBoundary = true ∧
    t.run = .returned .hitBreakpoint)

/-- O35. eret restores all of status from estatus and goes to x[29]; rejected in user mode with cause 10, misaligned with
cause 7 (stated: R266). -/
def Obligations.EretRestoresStatusAndPc : Prop :=
  DecodesRegisterForm 0x01#6 (fun _ => .valid .eret) ∧
  (∀ s : State, (s.user = false ∨ s.cfg.eretBretPrivileged = false) → (s.readReg 29#5).toNat % 4 = 0 →
    ∃ t, exec .eret s = .next t ∧ t.status = s.estatus ∧ t.pc = s.readReg 29#5 ∧ KeepsRegs s t ∧
      t.blockBoundary = true ∧ (∀ n, n ≠ 0#5 → t.readCtl n = s.readCtl n) ∧ t.tlb = s.tlb ∧ KeepsMemory s t ∧
      KeepsInputs s t ∧ t.run = s.run) ∧
  (∀ s : State, s.user = true → s.cfg.eretBretPrivileged = true → Raises s .eret .supervisorInstruction) ∧
  (∀ s : State, (s.user = false ∨ s.cfg.eretBretPrivileged = false) → (s.readReg 29#5).toNat % 4 ≠ 0 →
    RaisesMisalignedDestination s .eret (s.readReg 29#5))

/-- O36. bret goes to x[30] and restores nothing else; rejected in user mode with cause 10, misaligned with cause 7
(stated: R263). -/
def Obligations.BretRestoresPcOnly : Prop :=
  DecodesRegisterForm 0x09#6 (fun _ => .valid .bret) ∧
  (∀ s : State, (s.user = false ∨ s.cfg.eretBretPrivileged = false) → (s.readReg 30#5).toNat % 4 = 0 →
    Transfers s .bret (s.readReg 30#5)) ∧
  (∀ s : State, s.user = true → s.cfg.eretBretPrivileged = true → Raises s .bret .supervisorInstruction) ∧
  (∀ s : State, (s.user = false ∨ s.cfg.eretBretPrivileged = false) → (s.readReg 30#5).toNat % 4 ≠ 0 →
    RaisesMisalignedDestination s .bret (s.readReg 30#5))

/-- O37. rdctl completes in supervisor mode for each of the 32 control registers, with ipending computed; in user mode it
takes cause 5 (stated: R264). -/
def Obligations.RdctlReadsAControlRegister : Prop :=
  DecodesRegisterForm 0x26#6 (fun w => .valid (.rdctl (fieldC w) (fieldImm5 w))) ∧
  (∀ s rc n, s.user = false → Computes s (.rdctl rc n) rc (s.readCtl n)) ∧
  (∀ s rc n, s.user = true → Raises s (.rdctl rc n) .illegalInstruction) ∧
  (∀ s : State, s.readCtl 0#5 = s.status ∧ s.readCtl 1#5 = s.estatus ∧ s.readCtl 2#5 = s.bstatus ∧
    s.readCtl 3#5 = s.ienable ∧ s.readCtl 4#5 = s.ienable &&& s.lines ∧ s.readCtl 5#5 = s.cpuid ∧
    s.readCtl 6#5 = s.ctl6 ∧ s.readCtl 7#5 = s.exception ∧ s.readCtl 8#5 = s.pteaddr ∧ s.readCtl 9#5 = s.tlbacc ∧
    s.readCtl 10#5 = s.tlbmisc ∧ s.readCtl 11#5 = s.ctl11 ∧ s.readCtl 12#5 = s.badaddr ∧
    s.readCtl 13#5 = s.configReg) ∧
  (∀ (s : State) (k : Fin 18), s.readCtl (BitVec.ofNat 5 (14 + k.val)) = s.ctlHigh.get k) ∧
  (∀ s, MachineInv s → (s.readCtl 10#5).getLsbD 19 = false ∧ (s.readCtl 8#5).extractLsb' 0 2 = 0#2)

/-- O38. wrctl outside the TLB protocols completes in supervisor mode and writes exactly the named register; in user mode
it takes cause 5 (derived: 45_system.md, 10_state.md, 20_memory.md). -/
def Obligations.WrctlStoresAControlRegister : Prop :=
  DecodesRegisterForm 0x2E#6 (fun w => .valid (.wrctl (fieldImm5 w) (fieldA w))) ∧
  (∀ s n ra, s.user = false → (s.cfg.mmuPresent = true → n ≠ 9#5 ∧ n ≠ 10#5) →
    ∃ t, exec (.wrctl n ra) s = .next t ∧ KeepsRegs s t ∧ t.pc = s.pc + 4#32 ∧ t.blockBoundary = true ∧
      KeepsMemory s t ∧ KeepsInputs s t ∧ t.run = s.run ∧ t.tlb = s.tlb ∧
      t.readCtl n = (if n = 4#5 then s.readCtl 4#5 else if n = 8#5 then s.readReg ra &&& 0xFFFFFFFC#32
        else if n = 10#5 then s.readReg ra &&& 0xFFF7FFFF#32 else s.readReg ra) ∧
      (∀ m, m ≠ n → m ≠ 4#5 → t.readCtl m = s.readCtl m) ∧ t.readCtl 4#5 = t.readCtl 3#5 &&& s.lines) ∧
  (∀ s n ra, s.user = true → Raises s (.wrctl n ra) .illegalInstruction)

/-- O39. sync, flushd, flushda, flushi, flushp, initd, initda and initi complete in every state and mode and only advance
pc (stated: R267, R268, R269, R270, R271, R272, R273, R274). -/
def Obligations.NoOpInstructionsOnlyAdvance : Prop :=
  DecodesRegisterForm 0x36#6 (fun _ => .valid .sync) ∧
  DecodesPrimary 0x3B#6 (fun w => .valid (.flushd (fieldA w) (fieldImm16 w))) ∧
  DecodesPrimary 0x1B#6 (fun w => .valid (.flushda (fieldA w) (fieldImm16 w))) ∧
  DecodesRegisterForm 0x0C#6 (fun w => .valid (.flushi (fieldA w))) ∧
  DecodesRegisterForm 0x04#6 (fun _ => .valid .flushp) ∧
  DecodesPrimary 0x33#6 (fun w => .valid (.initd (fieldA w) (fieldImm16 w))) ∧
  DecodesPrimary 0x13#6 (fun w => .valid (.initda (fieldA w) (fieldImm16 w))) ∧
  DecodesRegisterForm 0x29#6 (fun w => .valid (.initi (fieldA w))) ∧
  ∀ s ra imm16, OnlyAdvances s .sync ∧ OnlyAdvances s (.flushd ra imm16) ∧ OnlyAdvances s (.flushda ra imm16) ∧
    OnlyAdvances s (.flushi ra) ∧ OnlyAdvances s .flushp ∧ OnlyAdvances s (.initd ra imm16) ∧
    OnlyAdvances s (.initda ra imm16) ∧ OnlyAdvances s (.initi ra)

/-- O40. After a dispatch of any cause from any state EH = 1, PIE = 0, U = 0, CAUSE is the cause, and no interrupt is
asserted (stated: R321). -/
def Obligations.DispatchPostconditionsForEveryCause : Prop :=
  (∀ c pc s, EntersHandler s (dispatch c pc s) c ∧ (dispatch c pc s).asserted = false ∧
    ¬ ((dispatch c pc s).eh = true ∧ (dispatch c pc s).user = true)) ∧
  (∀ c : Cause, c.code.toNat = match c with
    | .interrupt => 2
    | .trap => 3
    | .unimplementedInstruction => 4
    | .illegalInstruction => 5
    | .misalignedDataAddress => 6
    | .misalignedDestinationAddress => 7
    | .supervisorInstructionAddress => 9
    | .supervisorInstruction => 10
    | .supervisorDataAddress => 11
    | .tlbMiss => 12
    | .tlbPermissionExecute => 13
    | .tlbPermissionRead => 14
    | .tlbPermissionWrite => 15
    | .debugBreak => 31)

/-- O41. A first entry saves status and pc + 4 into the pair of the cause; a nested entry leaves both pairs and every
register as before (stated: R322). -/
def Obligations.FirstEntrySavesAndNestedEntryPreserves : Prop :=
  (∀ c pc s, c ≠ .debugBreak → SavesContext s (dispatch c pc s) (pc + 4#32)) ∧
  (∀ pc s, SavesBreakContext s (dispatch .debugBreak pc s) (pc + 4#32)) ∧
  (∀ c pc s n, n ≠ 0#5 → n ≠ 1#5 → n ≠ 2#5 → n ≠ 7#5 → n ≠ 10#5 → (dispatch c pc s).readCtl n = s.readCtl n) ∧
  (∀ c pc s b, b ≠ 3 → b ≠ 18 → (dispatch c pc s).tlbmisc.getLsbD b = s.tlbmisc.getLsbD b) ∧
  (∀ c pc s, c ≠ .tlbMiss → c ≠ .tlbPermissionExecute → c ≠ .tlbPermissionRead → c ≠ .tlbPermissionWrite →
    (dispatch c pc s).tlbmisc = s.tlbmisc)

/-- O42. A TLB miss with EH = 0 sets WE, clears DBL and goes to the fast vector; one with EH = 1 sets DBL and goes to
EXCEPTION_ADDR (R323) (derived: 60_exceptions.md). -/
def Obligations.FastAndDoubleTlbMiss : Prop :=
  (∀ pc (s : State), s.eh = false → tlbmiscWe (dispatch .tlbMiss pc s).tlbmisc = true ∧
    tlbmiscDbl (dispatch .tlbMiss pc s).tlbmisc = false ∧ (dispatch .tlbMiss pc s).pc = s.cfg.fastTlbMissAddr) ∧
  (∀ pc (s : State), s.eh = true → tlbmiscWe (dispatch .tlbMiss pc s).tlbmisc = tlbmiscWe s.tlbmisc ∧
    tlbmiscDbl (dispatch .tlbMiss pc s).tlbmisc = true ∧ (dispatch .tlbMiss pc s).pc = s.cfg.exceptionAddr) ∧
  (∀ c ∈ [Cause.tlbPermissionExecute, Cause.tlbPermissionRead, Cause.tlbPermissionWrite], ∀ pc (s : State),
    (s.eh = false → tlbmiscWe (dispatch c pc s).tlbmisc = true ∧ tlbmiscDbl (dispatch c pc s).tlbmisc = false) ∧
    (s.eh = true → (dispatch c pc s).tlbmisc = s.tlbmisc)) ∧
  (∀ c pc (s : State), (c ≠ .tlbMiss ∨ s.eh = true) → (dispatch c pc s).pc = s.cfg.exceptionAddr)

/-- O43. An eret with estatus and x[29] as a first-entry dispatch left them restores status and goes to the link; bret
with x[30] goes to its link (stated: R330). -/
def Obligations.ReturnAfterFirstEntryRestoresTheContext : Prop :=
  (∀ c (s u : State), c ≠ .debugBreak → s.eh = false → s.pc.toNat % 4 = 0 → u.estatus = (dispatch c s.pc s).estatus →
    u.readReg 29#5 = (dispatch c s.pc s).readReg 29#5 → (u.user = false ∨ u.cfg.eretBretPrivileged = false) →
    ∃ t, exec .eret u = .next t ∧ t.status = s.status ∧ t.pc = s.pc + 4#32 ∧ KeepsRegs u t) ∧
  (∀ s u : State, s.eh = false → s.pc.toNat % 4 = 0 →
    u.readReg 30#5 = (dispatch .debugBreak s.pc s).readReg 30#5 → (u.user = false ∨ u.cfg.eretBretPrivileged = false) →
    ∃ t, exec .bret u = .next t ∧ t.pc = s.pc + 4#32 ∧ t.status = u.status ∧ KeepsRegs u t) ∧
  (∀ c pc (s : State), s.eh = true → (dispatch c pc s).estatus = s.estatus ∧ (dispatch c pc s).bstatus = s.bstatus ∧
    KeepsRegs s (dispatch c pc s)) ∧
  (∀ c (s : State), c ≠ .debugBreak → s.eh = false → s.pc.toNat % 4 = 0 →
    ∃ t, exec .eret (dispatch c s.pc s) = .next t ∧ t.status = s.status ∧ t.pc = s.pc + 4#32 ∧
      ∀ q, q ≠ 29#5 → t.readReg q = s.readReg q) ∧
  (∀ s : State, s.eh = false → s.pc.toNat % 4 = 0 →
    ∃ t, exec .bret (dispatch .debugBreak s.pc s) = .next t ∧ t.pc = s.pc + 4#32 ∧
      t.status = (dispatch .debugBreak s.pc s).status ∧ ∀ q, q ≠ 30#5 → t.readReg q = s.readReg q)

/-- O44. asserted is PIE and some line both enabled and up; set_line sets exactly its line (stated: R335, R336). -/
def Obligations.LinesAndAssertion : Prop :=
  (∀ s : State, s.asserted = true ↔
    s.status.getLsbD 0 = true ∧ ∃ n, n < 32 ∧ s.ienable.getLsbD n = true ∧ s.lines.getLsbD n = true) ∧
  (∀ (s : State) (n : Fin 32) level,
    (∀ k, k < 32 → (applyLive (.setLine n level) s).lines.getLsbD k = if k = n.val then level else s.lines.getLsbD k) ∧
    applyLive (.setLine n level) s = { s with lines := (applyLive (.setLine n level) s).lines } ∧
    (s.lines.getLsbD n.val = level → applyLive (.setLine n level) s = s))

/-- O45. At a block boundary an asserted interrupt is delivered in place of the instruction at pc; where none is asserted
none is delivered (stated: R337). Where a boundary is sampled is R296 of 48_engine_step.md. DEDUCED (log 10): where a
block boundary stands, and the counters of endStep. -/
def Obligations.AssertedInterruptIsDelivered : Prop :=
  (∀ s : State, s.refusal = none → (s.isBlockBoundary && s.stopFlag) = false → s.asserted = true →
    s.isBlockBoundary = true →
    ∃ t, step s = .next (s.endStep t) ∧ EntersHandler s.beginStep t .interrupt ∧
      SavesContext s.beginStep t (s.pc + 4#32) ∧ KeepsOtherCtl s.beginStep t) ∧
  (∀ s : State, s.refusal = none → (s.isBlockBoundary && s.stopFlag) = false → s.takesInterrupt = true →
    ∃ t, step s = .next (s.endStep t) ∧ EntersHandler s.beginStep t .interrupt ∧
      SavesContext s.beginStep t (s.pc + 4#32) ∧ KeepsOtherCtl s.beginStep t) ∧
  (∀ s : State, s.asserted = false → s.takesInterrupt = false) ∧
  (∀ s : State, s.asserted = false → s.refusal = none → (s.isBlockBoundary && s.stopFlag) = false →
    step s = if s.pc ∈ s.breakpoints then .next (s.endStep (debugEvent s.beginStep))
      else mapNext s.endStep (fetchDecodeExecute s.beginStep)) ∧
  (∀ s t : State, s.asserted = false → step s = .next t → t.exception.extractLsb' 2 5 = 2#5 →
    s.exception.extractLsb' 2 5 = 2#5 ∨
      ∃ w ra, s.fetchWord = .word w ∧ decode w = .valid (.wrctl 7#5 ra) ∧ s.user = false)

/-- O46. With the stop flag up at a block boundary the step changes no architectural state and returns "halted by request"
(R290, R296) (derived: 48_engine_step.md). DEDUCED (log 10), DESIGN CHOICE (log 26). -/
def Obligations.StopRequestReturnsAtABlockBoundary : Prop :=
  ∀ s : State, s.refusal = none → s.isBlockBoundary = true → s.stopFlag = true →
    ∃ t, step s = .next t ∧ t.run = .returned .haltedByRequest ∧ KeepsRegs s t ∧ t.pc = s.pc ∧ KeepsCtl s t ∧
      t.tlb = s.tlb ∧ KeepsMemory s t ∧ KeepsInputs s t ∧ t.isBlockBoundary = true

/-- O47. A breakpoint at pc is taken before the instruction is fetched: dispatched with cause 31, or left to the host
(R297) (derived: 48_engine_step.md). DEDUCED (logs 10, 25). -/
def Obligations.BreakpointMatchIsADebugEvent : Prop :=
  ∀ s : State, s.refusal = none → (s.isBlockBoundary && s.stopFlag) = false → s.takesInterrupt = false →
    s.pc ∈ s.breakpoints →
    (s.cfg.hostInterceptsDebug = false → ∃ u t, step s = .next t ∧ EntersHandler s.beginStep u .debugBreak ∧
      SavesBreakContext s.beginStep u (s.pc + 4#32) ∧ KeepsOtherCtl s.beginStep u ∧
      t = s.endStep (u.returnToHost .hitBreakpoint)) ∧
    (s.cfg.hostInterceptsDebug = true → ∃ t, step s = .next t ∧ KeepsRegs s t ∧ t.pc = s.pc ∧ KeepsCtl s t ∧
      t.tlb = s.tlb ∧ KeepsMemory s t ∧ t.run = .returned .hitBreakpoint)

/-- O48. step refuses exactly the states to which the spec gives no meaning: EH and U both 1, a misaligned pc, a
misaligned vector (derived: 93_implementation_defined.md, 10_state.md, 00_scope.md). DESIGN CHOICE (log 26): they are
refused first. -/
def Obligations.StepRefusesStatesWithoutMeaning : Prop :=
  ∀ s : State, (∃ r, step s = .refused r) ↔
    (s.cfg.resetAddr.toNat % 4 ≠ 0 ∨ s.cfg.exceptionAddr.toNat % 4 ≠ 0 ∨ s.cfg.fastTlbMissAddr.toNat % 4 ≠ 0 ∨
      s.pc.toNat % 4 ≠ 0 ∨ (s.status.getLsbD 2 = true ∧ s.status.getLsbD 1 = true))

/-- O49. Every step keeps the machine invariant (derived: 10_state.md, 20_memory.md, 48_engine_step.md). -/
def Obligations.StepKeepsTheMachineInvariant : Prop :=
  ∀ s t, MachineInv s → step s = .next t → MachineInv t

/-- O50. The state after reset has the values of R48 and meets the invariant, for every valid configuration and every
initial TLB (derived: 10_state.md, 70_reset_and_hazards.md). DESIGN CHOICE (logs 2, 4, 5, 15): what R48 leaves to the
host and the platform. -/
def Obligations.ResetMeetsTheInvariantAndTheTable : Prop :=
  (∀ c tlb, validConfig c = true → tlb.length = c.tlbSize → MachineInv (State.resetWith c tlb)) ∧
  (∀ c tlb q, (State.resetWith c tlb).readReg q = 0#32) ∧ (∀ c tlb n, (State.resetWith c tlb).readCtl n = 0#32) ∧
  (∀ c tlb, (State.resetWith c tlb).pc = c.resetAddr ∧ (State.resetWith c tlb).lines = 0#32 ∧
    (State.resetWith c tlb).tlb = tlb ∧ (State.resetWith c tlb).isBlockBoundary = true) ∧
  MachineInv State.reset ∧ MachineInv State.resetMmu

/-- O51. Every move of the device layer or the host between steps keeps the invariant, but a host write of a misaligned pc
(derived: 10_state.md, 48_engine_step.md, 60_exceptions.md). DEDUCED (logs 16, 17). -/
def Obligations.MovesBetweenStepsKeepTheInvariant : Prop :=
  (∀ m s, MachineInv s → MachineInv (applyLive m s)) ∧
  (∀ m s t, m.wellFormed s.cfg = true → MachineInv s → applyHost m s = some t → MachineInv t)

/-- O52. No step changes the configuration, the lines, the breakpoint set or the stop flag (R294) (derived:
48_engine_step.md). -/
def Obligations.StepLeavesInputsAlone : Prop :=
  ∀ s t, step s = .next t →
    t.cfg = s.cfg ∧ t.lines = s.lines ∧ t.breakpoints = s.breakpoints ∧ t.stopFlag = s.stopFlag

/-- O53. Each general register, control register, pc, the TLB and memory change only by the instructions and dispatches
that R50 names (derived: 10_state.md, 20_memory.md, 60_exceptions.md). -/
def Obligations.OnlyItsWritersChangeEachPartOfTheState : Prop :=
  ∀ i s t, s.pc.toNat % 4 = 0 → exec i s = .next t →
    (isStoreInstr i = false → KeepsMemory s t) ∧
    (t.tlb = s.tlb ∨ ((∃ ra, i = .wrctl 9#5 ra) ∧ s.user = false ∧ tlbmiscWe s.tlbmisc = true ∧ s.cfg.mmuPresent = true)) ∧
    (t.status = s.status ∨ ((∃ ra, i = .wrctl 0#5 ra) ∧ s.user = false) ∨ (i = .eret ∧ t.status = s.estatus) ∨
      ∃ c, EntersHandler s t c) ∧
    (∀ q, t.readReg q = s.readReg q ∨ destinationOf i = some q ∨
      (q = 29#5 ∧ s.eh = false ∧ ∃ c, c ≠ .debugBreak ∧ EntersHandler s t c) ∨
      (q = 30#5 ∧ s.eh = false ∧ EntersHandler s t .debugBreak)) ∧
    (∀ n, t.readCtl n = s.readCtl n ∨ MayWriteCtl i s t n) ∧
    (t.pc = s.pc + 4#32 ∨ roleOf i = .transfer ∨ roleOf i = .link ∨ (∃ c, EntersHandler s t c) ∨
      ((∃ imm5, i = .brk imm5) ∧ s.cfg.hostInterceptsDebug = true ∧ t.pc = s.pc)) ∧
    KeepsInputs s t

/-- O54. A step from user mode keeps control registers and TLB, or enters a handler and writes only what Dispatch and the
fault record do, or is an unprivileged eret (derived: 60_exceptions.md, 45_system.md). -/
def Obligations.UserModeCannotReachSupervisorState : Prop :=
  ∀ s t : State, s.user = true → step s = .next t →
    (KeepsCtl s t ∧ t.user = true ∧ t.tlb = s.tlb) ∨
    (t.user = false ∧ t.eh = true ∧ t.pie = false ∧ (t.pc = s.cfg.exceptionAddr ∨ t.pc = s.cfg.fastTlbMissAddr) ∧
      t.tlb = s.tlb ∧ ∀ n, n ≠ 0#5 → n ≠ 1#5 → n ≠ 2#5 → n ≠ 7#5 → n ≠ 8#5 → n ≠ 10#5 → n ≠ 12#5 →
        t.readCtl n = s.readCtl n) ∨
    (s.cfg.eretBretPrivileged = false ∧ (∃ w, s.fetchWord = .word w ∧ decode w = .valid .eret) ∧ t.status = s.estatus ∧
      t.tlb = s.tlb ∧ ∀ n, n ≠ 0#5 → t.readCtl n = s.readCtl n)

/-- O55. A step that leaves the Exception-active state ran eret with estatus.EH = 0, or wrctl status in supervisor mode
with bit 2 clear (R310, C4) (derived: 60_exceptions.md, 90_conflicts.md). -/
def Obligations.OnlyEretAndWrctlStatusClearEh : Prop :=
  ∀ s t : State, s.eh = true → t.eh = false → step s = .next t →
    ∃ w, s.fetchWord = .word w ∧
      ((decode w = .valid .eret ∧ s.estatus.getLsbD 2 = false) ∨
       (∃ ra, decode w = .valid (.wrctl 0#5 ra) ∧ s.user = false ∧ (s.readReg ra).getLsbD 2 = false))

/-- O56. After a step the boundary is a block boundary at a page start, at a breakpoint, when the budget is used up, and
after every dispatch (R295) (derived: 48_engine_step.md). DEDUCED (log 10): the reading of (b) and (c) off the state,
and the count of (d). -/
def Obligations.BlockBoundariesFollowTheirCauses : Prop :=
  ∀ s t : State, step s = .next t →
    (t.pc.toNat % 2 ^ t.cfg.pageBits = 0 → t.isBlockBoundary = true) ∧
    (t.pc ∈ t.breakpoints → t.isBlockBoundary = true) ∧
    (s.cfg.blockBudget ≤ (if s.isBlockBoundary then 0 else s.blockCount) + 1 → t.isBlockBoundary = true) ∧
    ((s.isBlockBoundary && s.stopFlag) = false → s.takesInterrupt = true → t.isBlockBoundary = true) ∧
    ((s.isBlockBoundary && s.stopFlag) = false → s.takesInterrupt = false → s.pc ∈ s.breakpoints →
      t.isBlockBoundary = true) ∧
    (ReadyToExecute s → (∃ f, s.translate s.pc .fetch = .error f) → t.isBlockBoundary = true) ∧
    (ReadyToExecute s → (∃ w, s.fetchWord = .word w ∧ (decode w).instr? = none) → t.isBlockBoundary = true) ∧
    (ReadyToExecute s → (∃ w i c va u, s.fetchWord = .word w ∧ (decode w).instr? = some i ∧
      exec i s.beginStep = .next (dispatch c va u)) → t.isBlockBoundary = true) ∧
    (∀ c va u, t = s.endStep (dispatch c va u) → t.isBlockBoundary = true) ∧
    (t.isBlockBoundary = true ∨ t.blockCount < t.cfg.blockBudget)

/-- O57. A run returns stopped, the next one starts at a block boundary, and a used-up budget returns at a block boundary
(R295, R298) (derived: 48_engine_step.md). DEDUCED (log 10), DESIGN CHOICE (log 28). -/
def Obligations.RunsReturnAtABlockBoundary : Prop :=
  (∀ s : State, s.stopped = true → s.isBlockBoundary = true) ∧
  (∀ s t, step s = .next t →
    t.run = .running ∨ t.run = .returned .hitBreakpoint ∨ t.run = .returned .haltedByRequest) ∧
  (∀ budget moves s why t, runUntil budget moves s = .returned why t → t.run = .returned why ∧ t.stopped = true) ∧
  (∀ s why t, singleStep s = .returned why t → t.run = .returned why ∧ t.stopped = true) ∧
  (∀ budget moves s t, MachineInv s → runUntil budget moves s = .returned .exitedAtBudget t →
    ∃ n u, n ≤ budget + s.cfg.blockBudget ∧ StandsAtFirstBoundary budget moves s n u ∧ MachineInv u ∧
      t = u.returnToHost .exitedAtBudget) ∧
  (∀ budget moves s n u, MachineInv s → StandsAtFirstBoundary budget moves s n u →
    runUntil budget moves s = .returned .exitedAtBudget (u.returnToHost .exitedAtBudget))

/-- O58. Core reset of any machine puts every register, pc, lines and the TLB at the values of R48 and leaves memory,
breakpoints and stop flag (stated: R48). -/
def Obligations.CoreResetSetsTheTable : Prop :=
  ∀ (s : State) tlb, (∀ q, (s.coreReset tlb).readReg q = 0#32) ∧ (s.coreReset tlb).pc = s.cfg.resetAddr ∧
    (∀ n, (s.coreReset tlb).readCtl n = 0#32) ∧ (s.coreReset tlb).pie = false ∧ (s.coreReset tlb).user = false ∧
    (s.coreReset tlb).eh = false ∧ (s.coreReset tlb).asserted = false ∧ (s.coreReset tlb).tlb = tlb ∧
    (s.coreReset tlb).lines = 0#32 ∧ KeepsMemory s (s.coreReset tlb) ∧
    (s.coreReset tlb).breakpoints = s.breakpoints ∧ (s.coreReset tlb).stopFlag = s.stopFlag

/-- O59. While the core runs no host move is possible but raising the stop flag; stopped, a host write changes only what
it names (R49, R302) (derived: 48_engine_step.md, 10_state.md, 70_reset_and_hazards.md). DEDUCED (logs 15, 16, 17). -/
def Obligations.HostActsOnlyOnAStoppedCore : Prop :=
  (∀ m s, s.run = .running → applyHost m s = none) ∧
  (∀ s r v, s.stopped = true → ∃ t, applyHost (.writeReg r v) s = some t ∧ WritesReg s t r v ∧ t.pc = s.pc ∧
    t.blockBoundary = s.blockBoundary ∧ KeepsRest s t) ∧
  (∀ s n v, s.stopped = true → ∃ t, applyHost (.writeCtl n v) s = some t ∧ KeepsRegs s t ∧ t.pc = s.pc ∧
    t.tlb = s.tlb ∧ KeepsMemory s t ∧ KeepsInputs s t ∧ t.run = s.run ∧
    t.readCtl n = (if n = 4#5 then s.readCtl 4#5 else if n = 8#5 then v &&& 0xFFFFFFFC#32
      else if n = 10#5 then v &&& 0xFFF7FFFF#32 else v) ∧
    (∀ m, m ≠ n → m ≠ 4#5 → t.readCtl m = s.readCtl m) ∧ t.readCtl 4#5 = t.readCtl 3#5 &&& s.lines) ∧
  (∀ s v, s.stopped = true → applyHost (.writePc v) s = some { s with pc := v }) ∧
  (∀ s va, s.stopped = true → ∃ b, applyHost (.addBreakpoint va) s = some { s with breakpoints := b } ∧
    ∀ a, a ∈ b ↔ a = va ∨ a ∈ s.breakpoints) ∧
  (∀ s va, s.stopped = true → ∃ b, applyHost (.removeBreakpoint va) s = some { s with breakpoints := b } ∧
    ∀ a, a ∈ b ↔ a ≠ va ∧ a ∈ s.breakpoints) ∧
  (∀ s up, s.stopped = true → applyHost (.setStop up) s = some { s with stopFlag := up }) ∧
  (∀ s tlb, s.stopped = true → applyHost (.resetCore tlb) s = some (s.coreReset tlb)) ∧
  (∀ m s, ∃ l mem f, applyLive m s = { s with lines := l, mem := mem, stopFlag := f } ∧ (s.stopFlag = true → f = true)) ∧
  (∀ s (n : Fin 32) level, ∃ l, applyLive (.setLine n level) s = { s with lines := l } ∧
    ∀ k, k < 32 → l.getLsbD k = if k = n.val then level else s.lines.getLsbD k) ∧
  (∀ s pa b, s.mem.wf = true → ∃ mem, applyLive (.deviceWrite pa b) s = { s with mem := mem } ∧ mem.wf = true ∧
    mem.read pa.toNat = b ∧ ∀ a, a ≠ pa.toNat → mem.read a = s.mem.read a) ∧
  (∀ s, applyLive .raiseStop s = { s with stopFlag := true })

/-- O60. In a state with the invariant and an MMU every way and set has its entry, way by way in one list (the model's
layout, log 22) (derived: 10_state.md). DESIGN CHOICE (log 22). -/
def Obligations.TlbEntriesStandInOneList : Prop :=
  ∀ s : State, MachineInv s → s.cfg.mmuPresent = true → ∀ way set, way < s.cfg.tlbWays → set < s.cfg.tlbSets →
    s.tlb[way * s.cfg.tlbSets + set]? = some (s.tlbEntry way set)

end
end

