-- ==== Sys2Proof/Laws/Fields.lean ====
section
/-! SUPPORT. What reading a bit field gives after a bit field was written. -/

namespace Sys2Proof.Machine

theorem getLsbD_insertField (w : Word) (lo n : Nat) (v : BitVec n) (i : Nat) (h : lo + n ≤ 32) :
    (insertField w lo n v).getLsbD i = if lo ≤ i ∧ i < lo + n then v.getLsbD (i - lo) else w.getLsbD i := by
  unfold insertField
  by_cases hi : i < 32
  · by_cases hlo : lo ≤ i
    · by_cases hn : i < lo + n
      · have h1 : i - lo < n := by omega
        simp [hi, hlo, hn, h1, Nat.not_lt.mpr hlo]
      · have h1 : ¬ i - lo < n := by omega
        simp [hi, hlo, hn, h1, Nat.not_lt.mpr hlo, BitVec.getLsbD_of_ge v (i - lo) (by omega)]
    · have h0 : i < lo := by omega
      simp [hi, hlo, h0]
  · have h32 : 32 ≤ i := by omega
    have h1 : ¬ (lo ≤ i ∧ i < lo + n) := by omega
    rw [if_neg h1, BitVec.getLsbD_of_ge _ i h32, BitVec.getLsbD_of_ge _ i h32]

/-- The field that was written reads as what was written. -/
theorem extract_insertField (w : Word) (lo n : Nat) (v : BitVec n) (h : lo + n ≤ 32) :
    (insertField w lo n v).extractLsb' lo n = v := by
  apply BitVec.eq_of_getLsbD_eq
  intro i hi
  have h1 : lo ≤ lo + i ∧ lo + i < lo + n := by omega
  rw [BitVec.getLsbD_extractLsb', getLsbD_insertField _ _ _ _ _ h, if_pos h1]
  simp [hi]

/-- A field that does not overlap the one written reads as before. -/
theorem extract_insertField_of_disjoint (w : Word) (lo n : Nat) (v : BitVec n) (lo' n' : Nat) (h : lo + n ≤ 32)
    (hd : lo' + n' ≤ lo ∨ lo + n ≤ lo') : (insertField w lo n v).extractLsb' lo' n' = w.extractLsb' lo' n' := by
  apply BitVec.eq_of_getLsbD_eq
  intro i hi
  have h1 : ¬ (lo ≤ lo' + i ∧ lo' + i < lo + n) := by omega
  rw [BitVec.getLsbD_extractLsb', BitVec.getLsbD_extractLsb', getLsbD_insertField _ _ _ _ _ h, if_neg h1]

theorem handlerStatus_bit (w : Word) (i : Nat) :
    (handlerStatus w).getLsbD i = if i < 3 then i == 2 else w.getLsbD i := by
  unfold handlerStatus
  rw [getLsbD_insertField _ _ _ _ _ (by omega)]
  by_cases h : i < 3
  · have : i = 0 ∨ i = 1 ∨ i = 2 := by omega
    rcases this with rfl | rfl | rfl <;> simp
  · simp [h]

theorem setExceptionCause_field (w : Word) (c : BitVec 5) : (setExceptionCause w c).extractLsb' 2 5 = c :=
  extract_insertField w 2 5 c (by omega)

theorem setExceptionCause_bit (w : Word) (c : BitVec 5) (i : Nat) (h : i < 2 ∨ 7 ≤ i) :
    (setExceptionCause w c).getLsbD i = w.getLsbD i := by
  unfold setExceptionCause
  rw [getLsbD_insertField _ _ _ _ _ (by omega), if_neg (by omega)]

theorem truthWord_toNat (b : Bool) : (truthWord b).toNat = if b then 1 else 0 := by
  cases b <;> rfl

end Sys2Proof.Machine
end

