-- ==== Sys2Proof/Laws/Memory.lean ====
section
/-! SUPPORT. Physical memory: a read after a write, and the canonical form that every write keeps. -/

namespace Sys2Proof.Machine

theorem Memory.wfFrom_mono {lo lo' : Nat} {m : Memory} (h : Memory.wfFrom lo' m = true) (hl : lo ≤ lo') :
    Memory.wfFrom lo m = true := by
  cases m with
  | nil => rfl
  | cons c rest =>
    obtain ⟨k, v⟩ := c
    simp only [Memory.wfFrom, Bool.and_eq_true, decide_eq_true_eq] at h ⊢
    exact ⟨⟨⟨by omega, h.1.1.2⟩, h.1.2⟩, h.2⟩

/-- An address below every cell is not listed. -/
theorem Memory.read_of_lt {lo : Nat} {m : Memory} (h : Memory.wfFrom lo m = true) {a : Nat} (ha : a < lo) :
    m.read a = Memory.unlisted := by
  induction m generalizing lo with
  | nil => rfl
  | cons c rest ih =>
    obtain ⟨k, v⟩ := c
    simp only [Memory.wfFrom, Bool.and_eq_true, decide_eq_true_eq] at h
    have hk : ¬ k = a := by omega
    simp only [Memory.read, if_neg hk]
    exact ih h.2 (by omega)

theorem Memory.read_cons (a : Nat) (b : Byte) (m : Memory) (a' : Nat) (h : Memory.wfFrom (a + 1) m = true) :
    (Memory.cons a b m).read a' = if a' = a then b else m.read a' := by
  unfold Memory.cons
  split
  · next hb =>
    split
    · next ha => rw [ha, Memory.read_of_lt h (by omega), hb]
    · rfl
  · simp only [Memory.read, eq_comm]

theorem Memory.wfFrom_cons {a : Nat} {b : Byte} {m : Memory} {lo : Nat} (h : Memory.wfFrom (a + 1) m = true)
    (hlo : lo ≤ a) (ha : a < 2 ^ 32) : Memory.wfFrom lo (Memory.cons a b m) = true := by
  unfold Memory.cons
  split
  · exact Memory.wfFrom_mono h (by omega)
  · next hb =>
    simp only [Memory.wfFrom, Bool.and_eq_true, decide_eq_true_eq, bne_iff_ne, ne_eq]
    exact ⟨⟨⟨hlo, ha⟩, hb⟩, h⟩

/-- A write keeps the canonical form. -/
theorem Memory.wfFrom_write {lo : Nat} {m : Memory} (h : Memory.wfFrom lo m = true) {a : Nat} (b : Byte)
    (hlo : lo ≤ a) (ha : a < 2 ^ 32) : Memory.wfFrom lo (m.write a b) = true := by
  induction m generalizing lo with
  | nil => exact Memory.wfFrom_cons rfl hlo ha
  | cons c rest ih =>
    obtain ⟨k, v⟩ := c
    have h' := h
    simp only [Memory.wfFrom, Bool.and_eq_true, decide_eq_true_eq] at h
    simp only [Memory.write]
    split
    · next hak =>
      refine Memory.wfFrom_cons ?_ hlo ha
      simp only [Memory.wfFrom, Bool.and_eq_true, decide_eq_true_eq]
      exact ⟨⟨⟨by omega, h.1.1.2⟩, h.1.2⟩, h.2⟩
    · split
      · next hak => exact Memory.wfFrom_cons (hak ▸ h.2) hlo ha
      · simp only [Memory.wfFrom, Bool.and_eq_true, decide_eq_true_eq]
        exact ⟨h.1, ih h.2 (by omega)⟩

theorem Memory.wf_write {m : Memory} (h : m.wf = true) (a : Nat) (b : Byte) (ha : a < 2 ^ 32) :
    (m.write a b).wf = true := Memory.wfFrom_write h b (Nat.zero_le a) ha

/-- A read after a write. -/
theorem Memory.read_write_from {lo : Nat} {m : Memory} (h : Memory.wfFrom lo m = true) (a : Nat) (b : Byte) (a' : Nat) :
    (m.write a b).read a' = if a' = a then b else m.read a' := by
  induction m generalizing lo with
  | nil => exact Memory.read_cons a b [] a' rfl
  | cons c rest ih =>
    obtain ⟨k, v⟩ := c
    have h' := h
    simp only [Memory.wfFrom, Bool.and_eq_true, decide_eq_true_eq] at h
    simp only [Memory.write]
    split
    · next hak =>
      refine Memory.read_cons a b _ a' ?_
      simp only [Memory.wfFrom, Bool.and_eq_true, decide_eq_true_eq]
      exact ⟨⟨⟨by omega, h.1.1.2⟩, h.1.2⟩, h.2⟩
    · split
      · next hak =>
        subst hak
        rw [Memory.read_cons a b rest a' h.2]
        by_cases ha : a' = a
        · simp [ha]
        · have : ¬ a = a' := fun e => ha e.symm
          simp [ha, Memory.read, this]
      · next h1 h2 =>
        simp only [Memory.read, ih h.2]
        by_cases hk : k = a'
        · have : ¬ a' = a := by omega
          simp [hk, this]
        · simp [hk]

theorem Memory.read_write {m : Memory} (h : m.wf = true) (a : Nat) (b : Byte) (a' : Nat) :
    (m.write a b).read a' = if a' = a then b else m.read a' := Memory.read_write_from h a b a'

theorem byteAddress_lt (pa : Word) (k : Nat) : byteAddress pa k < 2 ^ 32 := (pa + BitVec.ofNat 32 k).isLt

/-- The bytes of one access lie at different addresses. -/
theorem byteAddress_inj {pa : Word} {j k : Nat} (hj : j < 4) (hk : k < 4) :
    byteAddress pa j = byteAddress pa k ↔ j = k := by
  constructor
  · intro h
    have h1 : pa + BitVec.ofNat 32 j = pa + BitVec.ofNat 32 k := BitVec.eq_of_toNat_eq h
    have h2 := congrArg BitVec.toNat (BitVec.add_right_inj pa |>.mp h1)
    simp only [BitVec.toNat_ofNat] at h2
    omega
  · rintro rfl; rfl

/-- An access stores to the canonical form. -/
theorem Memory.wf_store {m : Memory} (h : m.wf = true) (pa : Word) (n : Width) (v : Word) :
    (m.store pa n v).wf = true := by
  cases n <;> simp only [Memory.store]
  · exact Memory.wf_write h _ _ (byteAddress_lt _ _)
  · exact Memory.wf_write (Memory.wf_write h _ _ (byteAddress_lt _ _)) _ _ (byteAddress_lt _ _)
  · exact Memory.wf_write (Memory.wf_write (Memory.wf_write (Memory.wf_write h _ _ (byteAddress_lt _ _)) _ _
      (byteAddress_lt _ _)) _ _ (byteAddress_lt _ _)) _ _ (byteAddress_lt _ _)

/-- A byte of an access reads as the byte of the value that was stored. -/
theorem Memory.read_store_inside {m : Memory} (h : m.wf = true) (pa : Word) (n : Width) (v : Word) (k : Nat)
    (hk : k < n.bytes) : (m.store pa n v).read (byteAddress pa k) = byteOfWord v k := by
  have w0 := Memory.wf_write h (byteAddress pa 0) (byteOfWord v 0) (byteAddress_lt _ _)
  have w1 := Memory.wf_write w0 (byteAddress pa 1) (byteOfWord v 1) (byteAddress_lt _ _)
  have w2 := Memory.wf_write w1 (byteAddress pa 2) (byteOfWord v 2) (byteAddress_lt _ _)
  have e (i j : Nat) (hi : i < 4) (hj : j < 4) := @byteAddress_inj pa i j hi hj
  cases n <;> simp only [Width.bytes] at hk <;> simp only [Memory.store]
  · have : k = 0 := by omega
    subst this
    simp [Memory.read_write h]
  · have : k = 0 ∨ k = 1 := by omega
    rcases this with rfl | rfl <;> simp [Memory.read_write h, Memory.read_write w0, e]
  · have : k = 0 ∨ k = 1 ∨ k = 2 ∨ k = 3 := by omega
    rcases this with rfl | rfl | rfl | rfl <;>
      simp [Memory.read_write h, Memory.read_write w0, Memory.read_write w1, Memory.read_write w2, e]

/-- Every byte outside an access reads as before. -/
theorem Memory.read_store_outside {m : Memory} (h : m.wf = true) (pa : Word) (n : Width) (v : Word) (a : Nat)
    (ha : ∀ k, k < n.bytes → a ≠ byteAddress pa k) : (m.store pa n v).read a = m.read a := by
  have w0 := Memory.wf_write h (byteAddress pa 0) (byteOfWord v 0) (byteAddress_lt _ _)
  have w1 := Memory.wf_write w0 (byteAddress pa 1) (byteOfWord v 1) (byteAddress_lt _ _)
  have w2 := Memory.wf_write w1 (byteAddress pa 2) (byteOfWord v 2) (byteAddress_lt _ _)
  cases n <;> simp only [Width.bytes] at ha <;> simp only [Memory.store]
  · rw [Memory.read_write h, if_neg (ha 0 (by omega))]
  · rw [Memory.read_write w0, if_neg (ha 1 (by omega)), Memory.read_write h, if_neg (ha 0 (by omega))]
  · rw [Memory.read_write w2, if_neg (ha 3 (by omega)), Memory.read_write w1, if_neg (ha 2 (by omega)),
      Memory.read_write w0, if_neg (ha 1 (by omega)), Memory.read_write h, if_neg (ha 0 (by omega))]

/-- The word that was stored is the word that is read. -/
theorem Memory.value_store_word {m : Memory} (h : m.wf = true) (pa : Word) (v : Word) :
    (m.store pa .word v).value pa .word = v := by
  simp only [Memory.value, Memory.read_store_inside h pa .word v _ (show 0 < 4 by omega),
    Memory.read_store_inside h pa .word v _ (show 1 < 4 by omega),
    Memory.read_store_inside h pa .word v _ (show 2 < 4 by omega),
    Memory.read_store_inside h pa .word v _ (show 3 < 4 by omega)]
  apply BitVec.eq_of_getLsbD_eq
  intro i hi
  simp only [wordOfBytes, byteOfWord, BitVec.getLsbD_append, BitVec.getLsbD_extractLsb']
  by_cases h0 : i < 8
  · simp [h0]
  · by_cases h1 : i < 16
    · have : i - 8 < 8 := by omega
      have e : 8 + (i - 8) = i := by omega
      simp [h0, this, e]
    · by_cases h2 : i < 24
      · have a1 : ¬ i - 8 < 8 := by omega
        have a2 : i - 8 - 8 < 8 := by omega
        have e : 16 + (i - 8 - 8) = i := by omega
        simp [h0, a1, a2, e]
      · have a1 : ¬ i - 8 < 8 := by omega
        have a2 : ¬ i - 8 - 8 < 8 := by omega
        have a3 : i - 8 - 8 - 8 < 8 := by omega
        have e : 24 + (i - 8 - 8 - 8) = i := by omega
        simp [h0, a1, a2, a3, e]

end Sys2Proof.Machine
end

