-- ==== Sys2Proof/Laws/State.lean ====
section
/-! SUPPORT. One lemma per field of State per update: what each shared update leaves in each field. -/

namespace Sys2Proof.Machine

/-! ### writeReg -/

@[simp] theorem writeReg_cfg (s : State) (r : RegNum) (v : Word) : (s.writeReg r v).cfg = s.cfg := by unfold State.writeReg; split <;> rfl

@[simp] theorem writeReg_pc (s : State) (r : RegNum) (v : Word) : (s.writeReg r v).pc = s.pc := by unfold State.writeReg; split <;> rfl

@[simp] theorem writeReg_status (s : State) (r : RegNum) (v : Word) : (s.writeReg r v).status = s.status := by unfold State.writeReg; split <;> rfl

@[simp] theorem writeReg_estatus (s : State) (r : RegNum) (v : Word) : (s.writeReg r v).estatus = s.estatus := by unfold State.writeReg; split <;> rfl

@[simp] theorem writeReg_bstatus (s : State) (r : RegNum) (v : Word) : (s.writeReg r v).bstatus = s.bstatus := by unfold State.writeReg; split <;> rfl

@[simp] theorem writeReg_ienable (s : State) (r : RegNum) (v : Word) : (s.writeReg r v).ienable = s.ienable := by unfold State.writeReg; split <;> rfl

@[simp] theorem writeReg_cpuid (s : State) (r : RegNum) (v : Word) : (s.writeReg r v).cpuid = s.cpuid := by unfold State.writeReg; split <;> rfl

@[simp] theorem writeReg_ctl6 (s : State) (r : RegNum) (v : Word) : (s.writeReg r v).ctl6 = s.ctl6 := by unfold State.writeReg; split <;> rfl

@[simp] theorem writeReg_exception (s : State) (r : RegNum) (v : Word) : (s.writeReg r v).exception = s.exception := by unfold State.writeReg; split <;> rfl

@[simp] theorem writeReg_pteaddr (s : State) (r : RegNum) (v : Word) : (s.writeReg r v).pteaddr = s.pteaddr := by unfold State.writeReg; split <;> rfl

@[simp] theorem writeReg_tlbacc (s : State) (r : RegNum) (v : Word) : (s.writeReg r v).tlbacc = s.tlbacc := by unfold State.writeReg; split <;> rfl

@[simp] theorem writeReg_tlbmisc (s : State) (r : RegNum) (v : Word) : (s.writeReg r v).tlbmisc = s.tlbmisc := by unfold State.writeReg; split <;> rfl

@[simp] theorem writeReg_ctl11 (s : State) (r : RegNum) (v : Word) : (s.writeReg r v).ctl11 = s.ctl11 := by unfold State.writeReg; split <;> rfl

@[simp] theorem writeReg_badaddr (s : State) (r : RegNum) (v : Word) : (s.writeReg r v).badaddr = s.badaddr := by unfold State.writeReg; split <;> rfl

@[simp] theorem writeReg_configReg (s : State) (r : RegNum) (v : Word) : (s.writeReg r v).configReg = s.configReg := by unfold State.writeReg; split <;> rfl

@[simp] theorem writeReg_ctlHigh (s : State) (r : RegNum) (v : Word) : (s.writeReg r v).ctlHigh = s.ctlHigh := by unfold State.writeReg; split <;> rfl

@[simp] theorem writeReg_tlb (s : State) (r : RegNum) (v : Word) : (s.writeReg r v).tlb = s.tlb := by unfold State.writeReg; split <;> rfl

@[simp] theorem writeReg_lines (s : State) (r : RegNum) (v : Word) : (s.writeReg r v).lines = s.lines := by unfold State.writeReg; split <;> rfl

@[simp] theorem writeReg_mem (s : State) (r : RegNum) (v : Word) : (s.writeReg r v).mem = s.mem := by unfold State.writeReg; split <;> rfl

@[simp] theorem writeReg_breakpoints (s : State) (r : RegNum) (v : Word) : (s.writeReg r v).breakpoints = s.breakpoints := by unfold State.writeReg; split <;> rfl

@[simp] theorem writeReg_stopFlag (s : State) (r : RegNum) (v : Word) : (s.writeReg r v).stopFlag = s.stopFlag := by unfold State.writeReg; split <;> rfl

@[simp] theorem writeReg_run (s : State) (r : RegNum) (v : Word) : (s.writeReg r v).run = s.run := by unfold State.writeReg; split <;> rfl

@[simp] theorem writeReg_blockBoundary (s : State) (r : RegNum) (v : Word) : (s.writeReg r v).blockBoundary = s.blockBoundary := by unfold State.writeReg; split <;> rfl

@[simp] theorem writeReg_blockCount (s : State) (r : RegNum) (v : Word) : (s.writeReg r v).blockCount = s.blockCount := by unfold State.writeReg; split <;> rfl

@[simp] theorem writeReg_draws (s : State) (r : RegNum) (v : Word) : (s.writeReg r v).draws = s.draws := by unfold State.writeReg; split <;> rfl

/-! ### advance -/

@[simp] theorem advance_cfg (s : State) : s.advance.cfg = s.cfg := rfl

@[simp] theorem advance_x (s : State) : s.advance.x = s.x := rfl

@[simp] theorem advance_pc (s : State) : s.advance.pc = s.pcNext := rfl

@[simp] theorem advance_status (s : State) : s.advance.status = s.status := rfl

@[simp] theorem advance_estatus (s : State) : s.advance.estatus = s.estatus := rfl

@[simp] theorem advance_bstatus (s : State) : s.advance.bstatus = s.bstatus := rfl

@[simp] theorem advance_ienable (s : State) : s.advance.ienable = s.ienable := rfl

@[simp] theorem advance_cpuid (s : State) : s.advance.cpuid = s.cpuid := rfl

@[simp] theorem advance_ctl6 (s : State) : s.advance.ctl6 = s.ctl6 := rfl

@[simp] theorem advance_exception (s : State) : s.advance.exception = s.exception := rfl

@[simp] theorem advance_pteaddr (s : State) : s.advance.pteaddr = s.pteaddr := rfl

@[simp] theorem advance_tlbacc (s : State) : s.advance.tlbacc = s.tlbacc := rfl

@[simp] theorem advance_tlbmisc (s : State) : s.advance.tlbmisc = s.tlbmisc := rfl

@[simp] theorem advance_ctl11 (s : State) : s.advance.ctl11 = s.ctl11 := rfl

@[simp] theorem advance_badaddr (s : State) : s.advance.badaddr = s.badaddr := rfl

@[simp] theorem advance_configReg (s : State) : s.advance.configReg = s.configReg := rfl

@[simp] theorem advance_ctlHigh (s : State) : s.advance.ctlHigh = s.ctlHigh := rfl

@[simp] theorem advance_tlb (s : State) : s.advance.tlb = s.tlb := rfl

@[simp] theorem advance_lines (s : State) : s.advance.lines = s.lines := rfl

@[simp] theorem advance_mem (s : State) : s.advance.mem = s.mem := rfl

@[simp] theorem advance_breakpoints (s : State) : s.advance.breakpoints = s.breakpoints := rfl

@[simp] theorem advance_stopFlag (s : State) : s.advance.stopFlag = s.stopFlag := rfl

@[simp] theorem advance_run (s : State) : s.advance.run = s.run := rfl

@[simp] theorem advance_blockBoundary (s : State) : s.advance.blockBoundary = s.blockBoundary := rfl

@[simp] theorem advance_blockCount (s : State) : s.advance.blockCount = s.blockCount := rfl

@[simp] theorem advance_draws (s : State) : s.advance.draws = s.draws := rfl

/-! ### endBlock -/

@[simp] theorem endBlock_cfg (s : State) : s.endBlock.cfg = s.cfg := rfl

@[simp] theorem endBlock_x (s : State) : s.endBlock.x = s.x := rfl

@[simp] theorem endBlock_pc (s : State) : s.endBlock.pc = s.pc := rfl

@[simp] theorem endBlock_status (s : State) : s.endBlock.status = s.status := rfl

@[simp] theorem endBlock_estatus (s : State) : s.endBlock.estatus = s.estatus := rfl

@[simp] theorem endBlock_bstatus (s : State) : s.endBlock.bstatus = s.bstatus := rfl

@[simp] theorem endBlock_ienable (s : State) : s.endBlock.ienable = s.ienable := rfl

@[simp] theorem endBlock_cpuid (s : State) : s.endBlock.cpuid = s.cpuid := rfl

@[simp] theorem endBlock_ctl6 (s : State) : s.endBlock.ctl6 = s.ctl6 := rfl

@[simp] theorem endBlock_exception (s : State) : s.endBlock.exception = s.exception := rfl

@[simp] theorem endBlock_pteaddr (s : State) : s.endBlock.pteaddr = s.pteaddr := rfl

@[simp] theorem endBlock_tlbacc (s : State) : s.endBlock.tlbacc = s.tlbacc := rfl

@[simp] theorem endBlock_tlbmisc (s : State) : s.endBlock.tlbmisc = s.tlbmisc := rfl

@[simp] theorem endBlock_ctl11 (s : State) : s.endBlock.ctl11 = s.ctl11 := rfl

@[simp] theorem endBlock_badaddr (s : State) : s.endBlock.badaddr = s.badaddr := rfl

@[simp] theorem endBlock_configReg (s : State) : s.endBlock.configReg = s.configReg := rfl

@[simp] theorem endBlock_ctlHigh (s : State) : s.endBlock.ctlHigh = s.ctlHigh := rfl

@[simp] theorem endBlock_tlb (s : State) : s.endBlock.tlb = s.tlb := rfl

@[simp] theorem endBlock_lines (s : State) : s.endBlock.lines = s.lines := rfl

@[simp] theorem endBlock_mem (s : State) : s.endBlock.mem = s.mem := rfl

@[simp] theorem endBlock_breakpoints (s : State) : s.endBlock.breakpoints = s.breakpoints := rfl

@[simp] theorem endBlock_stopFlag (s : State) : s.endBlock.stopFlag = s.stopFlag := rfl

@[simp] theorem endBlock_run (s : State) : s.endBlock.run = s.run := rfl

@[simp] theorem endBlock_blockBoundary (s : State) : s.endBlock.blockBoundary = true := rfl

@[simp] theorem endBlock_blockCount (s : State) : s.endBlock.blockCount = s.blockCount := rfl

@[simp] theorem endBlock_draws (s : State) : s.endBlock.draws = s.draws := rfl

/-! ### jumpTo -/

@[simp] theorem jumpTo_cfg (s : State) (t : Word) : (s.jumpTo t).cfg = s.cfg := rfl

@[simp] theorem jumpTo_x (s : State) (t : Word) : (s.jumpTo t).x = s.x := rfl

@[simp] theorem jumpTo_pc (s : State) (t : Word) : (s.jumpTo t).pc = t := rfl

@[simp] theorem jumpTo_status (s : State) (t : Word) : (s.jumpTo t).status = s.status := rfl

@[simp] theorem jumpTo_estatus (s : State) (t : Word) : (s.jumpTo t).estatus = s.estatus := rfl

@[simp] theorem jumpTo_bstatus (s : State) (t : Word) : (s.jumpTo t).bstatus = s.bstatus := rfl

@[simp] theorem jumpTo_ienable (s : State) (t : Word) : (s.jumpTo t).ienable = s.ienable := rfl

@[simp] theorem jumpTo_cpuid (s : State) (t : Word) : (s.jumpTo t).cpuid = s.cpuid := rfl

@[simp] theorem jumpTo_ctl6 (s : State) (t : Word) : (s.jumpTo t).ctl6 = s.ctl6 := rfl

@[simp] theorem jumpTo_exception (s : State) (t : Word) : (s.jumpTo t).exception = s.exception := rfl

@[simp] theorem jumpTo_pteaddr (s : State) (t : Word) : (s.jumpTo t).pteaddr = s.pteaddr := rfl

@[simp] theorem jumpTo_tlbacc (s : State) (t : Word) : (s.jumpTo t).tlbacc = s.tlbacc := rfl

@[simp] theorem jumpTo_tlbmisc (s : State) (t : Word) : (s.jumpTo t).tlbmisc = s.tlbmisc := rfl

@[simp] theorem jumpTo_ctl11 (s : State) (t : Word) : (s.jumpTo t).ctl11 = s.ctl11 := rfl

@[simp] theorem jumpTo_badaddr (s : State) (t : Word) : (s.jumpTo t).badaddr = s.badaddr := rfl

@[simp] theorem jumpTo_configReg (s : State) (t : Word) : (s.jumpTo t).configReg = s.configReg := rfl

@[simp] theorem jumpTo_ctlHigh (s : State) (t : Word) : (s.jumpTo t).ctlHigh = s.ctlHigh := rfl

@[simp] theorem jumpTo_tlb (s : State) (t : Word) : (s.jumpTo t).tlb = s.tlb := rfl

@[simp] theorem jumpTo_lines (s : State) (t : Word) : (s.jumpTo t).lines = s.lines := rfl

@[simp] theorem jumpTo_mem (s : State) (t : Word) : (s.jumpTo t).mem = s.mem := rfl

@[simp] theorem jumpTo_breakpoints (s : State) (t : Word) : (s.jumpTo t).breakpoints = s.breakpoints := rfl

@[simp] theorem jumpTo_stopFlag (s : State) (t : Word) : (s.jumpTo t).stopFlag = s.stopFlag := rfl

@[simp] theorem jumpTo_run (s : State) (t : Word) : (s.jumpTo t).run = s.run := rfl

@[simp] theorem jumpTo_blockBoundary (s : State) (t : Word) : (s.jumpTo t).blockBoundary = true := rfl

@[simp] theorem jumpTo_blockCount (s : State) (t : Word) : (s.jumpTo t).blockCount = s.blockCount := rfl

@[simp] theorem jumpTo_draws (s : State) (t : Word) : (s.jumpTo t).draws = s.draws := rfl

/-! ### returnToHost -/

@[simp] theorem returnToHost_cfg (s : State) (w : ReturnReason) : (s.returnToHost w).cfg = s.cfg := rfl

@[simp] theorem returnToHost_x (s : State) (w : ReturnReason) : (s.returnToHost w).x = s.x := rfl

@[simp] theorem returnToHost_pc (s : State) (w : ReturnReason) : (s.returnToHost w).pc = s.pc := rfl

@[simp] theorem returnToHost_status (s : State) (w : ReturnReason) : (s.returnToHost w).status = s.status := rfl

@[simp] theorem returnToHost_estatus (s : State) (w : ReturnReason) : (s.returnToHost w).estatus = s.estatus := rfl

@[simp] theorem returnToHost_bstatus (s : State) (w : ReturnReason) : (s.returnToHost w).bstatus = s.bstatus := rfl

@[simp] theorem returnToHost_ienable (s : State) (w : ReturnReason) : (s.returnToHost w).ienable = s.ienable := rfl

@[simp] theorem returnToHost_cpuid (s : State) (w : ReturnReason) : (s.returnToHost w).cpuid = s.cpuid := rfl

@[simp] theorem returnToHost_ctl6 (s : State) (w : ReturnReason) : (s.returnToHost w).ctl6 = s.ctl6 := rfl

@[simp] theorem returnToHost_exception (s : State) (w : ReturnReason) : (s.returnToHost w).exception = s.exception := rfl

@[simp] theorem returnToHost_pteaddr (s : State) (w : ReturnReason) : (s.returnToHost w).pteaddr = s.pteaddr := rfl

@[simp] theorem returnToHost_tlbacc (s : State) (w : ReturnReason) : (s.returnToHost w).tlbacc = s.tlbacc := rfl

@[simp] theorem returnToHost_tlbmisc (s : State) (w : ReturnReason) : (s.returnToHost w).tlbmisc = s.tlbmisc := rfl

@[simp] theorem returnToHost_ctl11 (s : State) (w : ReturnReason) : (s.returnToHost w).ctl11 = s.ctl11 := rfl

@[simp] theorem returnToHost_badaddr (s : State) (w : ReturnReason) : (s.returnToHost w).badaddr = s.badaddr := rfl

@[simp] theorem returnToHost_configReg (s : State) (w : ReturnReason) : (s.returnToHost w).configReg = s.configReg := rfl

@[simp] theorem returnToHost_ctlHigh (s : State) (w : ReturnReason) : (s.returnToHost w).ctlHigh = s.ctlHigh := rfl

@[simp] theorem returnToHost_tlb (s : State) (w : ReturnReason) : (s.returnToHost w).tlb = s.tlb := rfl

@[simp] theorem returnToHost_lines (s : State) (w : ReturnReason) : (s.returnToHost w).lines = s.lines := rfl

@[simp] theorem returnToHost_mem (s : State) (w : ReturnReason) : (s.returnToHost w).mem = s.mem := rfl

@[simp] theorem returnToHost_breakpoints (s : State) (w : ReturnReason) : (s.returnToHost w).breakpoints = s.breakpoints := rfl

@[simp] theorem returnToHost_stopFlag (s : State) (w : ReturnReason) : (s.returnToHost w).stopFlag = s.stopFlag := rfl

@[simp] theorem returnToHost_run (s : State) (w : ReturnReason) : (s.returnToHost w).run = .returned w := rfl

@[simp] theorem returnToHost_blockBoundary (s : State) (w : ReturnReason) : (s.returnToHost w).blockBoundary = true := rfl

@[simp] theorem returnToHost_blockCount (s : State) (w : ReturnReason) : (s.returnToHost w).blockCount = s.blockCount := rfl

@[simp] theorem returnToHost_draws (s : State) (w : ReturnReason) : (s.returnToHost w).draws = s.draws := rfl

/-! ### saveContext -/

@[simp] theorem saveContext_cfg (c : Cause) (pc : Word) (s : State) : (saveContext c pc s).cfg = s.cfg := by unfold saveContext; split <;> [rfl; (split <;> simp)]

@[simp] theorem saveContext_pc (c : Cause) (pc : Word) (s : State) : (saveContext c pc s).pc = s.pc := by unfold saveContext; split <;> [rfl; (split <;> simp)]

@[simp] theorem saveContext_status (c : Cause) (pc : Word) (s : State) : (saveContext c pc s).status = s.status := by unfold saveContext; split <;> [rfl; (split <;> simp)]

@[simp] theorem saveContext_ienable (c : Cause) (pc : Word) (s : State) : (saveContext c pc s).ienable = s.ienable := by unfold saveContext; split <;> [rfl; (split <;> simp)]

@[simp] theorem saveContext_cpuid (c : Cause) (pc : Word) (s : State) : (saveContext c pc s).cpuid = s.cpuid := by unfold saveContext; split <;> [rfl; (split <;> simp)]

@[simp] theorem saveContext_ctl6 (c : Cause) (pc : Word) (s : State) : (saveContext c pc s).ctl6 = s.ctl6 := by unfold saveContext; split <;> [rfl; (split <;> simp)]

@[simp] theorem saveContext_exception (c : Cause) (pc : Word) (s : State) : (saveContext c pc s).exception = s.exception := by unfold saveContext; split <;> [rfl; (split <;> simp)]

@[simp] theorem saveContext_pteaddr (c : Cause) (pc : Word) (s : State) : (saveContext c pc s).pteaddr = s.pteaddr := by unfold saveContext; split <;> [rfl; (split <;> simp)]

@[simp] theorem saveContext_tlbacc (c : Cause) (pc : Word) (s : State) : (saveContext c pc s).tlbacc = s.tlbacc := by unfold saveContext; split <;> [rfl; (split <;> simp)]

@[simp] theorem saveContext_tlbmisc (c : Cause) (pc : Word) (s : State) : (saveContext c pc s).tlbmisc = s.tlbmisc := by unfold saveContext; split <;> [rfl; (split <;> simp)]

@[simp] theorem saveContext_ctl11 (c : Cause) (pc : Word) (s : State) : (saveContext c pc s).ctl11 = s.ctl11 := by unfold saveContext; split <;> [rfl; (split <;> simp)]

@[simp] theorem saveContext_badaddr (c : Cause) (pc : Word) (s : State) : (saveContext c pc s).badaddr = s.badaddr := by unfold saveContext; split <;> [rfl; (split <;> simp)]

@[simp] theorem saveContext_configReg (c : Cause) (pc : Word) (s : State) : (saveContext c pc s).configReg = s.configReg := by unfold saveContext; split <;> [rfl; (split <;> simp)]

@[simp] theorem saveContext_ctlHigh (c : Cause) (pc : Word) (s : State) : (saveContext c pc s).ctlHigh = s.ctlHigh := by unfold saveContext; split <;> [rfl; (split <;> simp)]

@[simp] theorem saveContext_tlb (c : Cause) (pc : Word) (s : State) : (saveContext c pc s).tlb = s.tlb := by unfold saveContext; split <;> [rfl; (split <;> simp)]

@[simp] theorem saveContext_lines (c : Cause) (pc : Word) (s : State) : (saveContext c pc s).lines = s.lines := by unfold saveContext; split <;> [rfl; (split <;> simp)]

@[simp] theorem saveContext_mem (c : Cause) (pc : Word) (s : State) : (saveContext c pc s).mem = s.mem := by unfold saveContext; split <;> [rfl; (split <;> simp)]

@[simp] theorem saveContext_breakpoints (c : Cause) (pc : Word) (s : State) : (saveContext c pc s).breakpoints = s.breakpoints := by unfold saveContext; split <;> [rfl; (split <;> simp)]

@[simp] theorem saveContext_stopFlag (c : Cause) (pc : Word) (s : State) : (saveContext c pc s).stopFlag = s.stopFlag := by unfold saveContext; split <;> [rfl; (split <;> simp)]

@[simp] theorem saveContext_run (c : Cause) (pc : Word) (s : State) : (saveContext c pc s).run = s.run := by unfold saveContext; split <;> [rfl; (split <;> simp)]

@[simp] theorem saveContext_blockBoundary (c : Cause) (pc : Word) (s : State) : (saveContext c pc s).blockBoundary = s.blockBoundary := by unfold saveContext; split <;> [rfl; (split <;> simp)]

@[simp] theorem saveContext_blockCount (c : Cause) (pc : Word) (s : State) : (saveContext c pc s).blockCount = s.blockCount := by unfold saveContext; split <;> [rfl; (split <;> simp)]

@[simp] theorem saveContext_draws (c : Cause) (pc : Word) (s : State) : (saveContext c pc s).draws = s.draws := by unfold saveContext; split <;> [rfl; (split <;> simp)]

/-! ### markTlbmisc -/

@[simp] theorem markTlbmisc_cfg (c : Cause) (s : State) : (markTlbmisc c s).cfg = s.cfg := by unfold markTlbmisc; split <;> (try split) <;> rfl

@[simp] theorem markTlbmisc_x (c : Cause) (s : State) : (markTlbmisc c s).x = s.x := by unfold markTlbmisc; split <;> (try split) <;> rfl

@[simp] theorem markTlbmisc_pc (c : Cause) (s : State) : (markTlbmisc c s).pc = s.pc := by unfold markTlbmisc; split <;> (try split) <;> rfl

@[simp] theorem markTlbmisc_status (c : Cause) (s : State) : (markTlbmisc c s).status = s.status := by unfold markTlbmisc; split <;> (try split) <;> rfl

@[simp] theorem markTlbmisc_estatus (c : Cause) (s : State) : (markTlbmisc c s).estatus = s.estatus := by unfold markTlbmisc; split <;> (try split) <;> rfl

@[simp] theorem markTlbmisc_bstatus (c : Cause) (s : State) : (markTlbmisc c s).bstatus = s.bstatus := by unfold markTlbmisc; split <;> (try split) <;> rfl

@[simp] theorem markTlbmisc_ienable (c : Cause) (s : State) : (markTlbmisc c s).ienable = s.ienable := by unfold markTlbmisc; split <;> (try split) <;> rfl

@[simp] theorem markTlbmisc_cpuid (c : Cause) (s : State) : (markTlbmisc c s).cpuid = s.cpuid := by unfold markTlbmisc; split <;> (try split) <;> rfl

@[simp] theorem markTlbmisc_ctl6 (c : Cause) (s : State) : (markTlbmisc c s).ctl6 = s.ctl6 := by unfold markTlbmisc; split <;> (try split) <;> rfl

@[simp] theorem markTlbmisc_exception (c : Cause) (s : State) : (markTlbmisc c s).exception = s.exception := by unfold markTlbmisc; split <;> (try split) <;> rfl

@[simp] theorem markTlbmisc_pteaddr (c : Cause) (s : State) : (markTlbmisc c s).pteaddr = s.pteaddr := by unfold markTlbmisc; split <;> (try split) <;> rfl

@[simp] theorem markTlbmisc_tlbacc (c : Cause) (s : State) : (markTlbmisc c s).tlbacc = s.tlbacc := by unfold markTlbmisc; split <;> (try split) <;> rfl

@[simp] theorem markTlbmisc_ctl11 (c : Cause) (s : State) : (markTlbmisc c s).ctl11 = s.ctl11 := by unfold markTlbmisc; split <;> (try split) <;> rfl

@[simp] theorem markTlbmisc_badaddr (c : Cause) (s : State) : (markTlbmisc c s).badaddr = s.badaddr := by unfold markTlbmisc; split <;> (try split) <;> rfl

@[simp] theorem markTlbmisc_configReg (c : Cause) (s : State) : (markTlbmisc c s).configReg = s.configReg := by unfold markTlbmisc; split <;> (try split) <;> rfl

@[simp] theorem markTlbmisc_ctlHigh (c : Cause) (s : State) : (markTlbmisc c s).ctlHigh = s.ctlHigh := by unfold markTlbmisc; split <;> (try split) <;> rfl

@[simp] theorem markTlbmisc_tlb (c : Cause) (s : State) : (markTlbmisc c s).tlb = s.tlb := by unfold markTlbmisc; split <;> (try split) <;> rfl

@[simp] theorem markTlbmisc_lines (c : Cause) (s : State) : (markTlbmisc c s).lines = s.lines := by unfold markTlbmisc; split <;> (try split) <;> rfl

@[simp] theorem markTlbmisc_mem (c : Cause) (s : State) : (markTlbmisc c s).mem = s.mem := by unfold markTlbmisc; split <;> (try split) <;> rfl

@[simp] theorem markTlbmisc_breakpoints (c : Cause) (s : State) : (markTlbmisc c s).breakpoints = s.breakpoints := by unfold markTlbmisc; split <;> (try split) <;> rfl

@[simp] theorem markTlbmisc_stopFlag (c : Cause) (s : State) : (markTlbmisc c s).stopFlag = s.stopFlag := by unfold markTlbmisc; split <;> (try split) <;> rfl

@[simp] theorem markTlbmisc_run (c : Cause) (s : State) : (markTlbmisc c s).run = s.run := by unfold markTlbmisc; split <;> (try split) <;> rfl

@[simp] theorem markTlbmisc_blockBoundary (c : Cause) (s : State) : (markTlbmisc c s).blockBoundary = s.blockBoundary := by unfold markTlbmisc; split <;> (try split) <;> rfl

@[simp] theorem markTlbmisc_blockCount (c : Cause) (s : State) : (markTlbmisc c s).blockCount = s.blockCount := by unfold markTlbmisc; split <;> (try split) <;> rfl

@[simp] theorem markTlbmisc_draws (c : Cause) (s : State) : (markTlbmisc c s).draws = s.draws := by unfold markTlbmisc; split <;> (try split) <;> rfl

/-! ### enterHandler -/

@[simp] theorem enterHandler_cfg (c : Cause) (v : Word) (s : State) : (enterHandler c v s).cfg = s.cfg := rfl

@[simp] theorem enterHandler_x (c : Cause) (v : Word) (s : State) : (enterHandler c v s).x = s.x := rfl

@[simp] theorem enterHandler_pc (c : Cause) (v : Word) (s : State) : (enterHandler c v s).pc = v := rfl

@[simp] theorem enterHandler_status (c : Cause) (v : Word) (s : State) : (enterHandler c v s).status = handlerStatus s.status := rfl

@[simp] theorem enterHandler_estatus (c : Cause) (v : Word) (s : State) : (enterHandler c v s).estatus = s.estatus := rfl

@[simp] theorem enterHandler_bstatus (c : Cause) (v : Word) (s : State) : (enterHandler c v s).bstatus = s.bstatus := rfl

@[simp] theorem enterHandler_ienable (c : Cause) (v : Word) (s : State) : (enterHandler c v s).ienable = s.ienable := rfl

@[simp] theorem enterHandler_cpuid (c : Cause) (v : Word) (s : State) : (enterHandler c v s).cpuid = s.cpuid := rfl

@[simp] theorem enterHandler_ctl6 (c : Cause) (v : Word) (s : State) : (enterHandler c v s).ctl6 = s.ctl6 := rfl

@[simp] theorem enterHandler_exception (c : Cause) (v : Word) (s : State) : (enterHandler c v s).exception = setExceptionCause s.exception c.code := rfl

@[simp] theorem enterHandler_pteaddr (c : Cause) (v : Word) (s : State) : (enterHandler c v s).pteaddr = s.pteaddr := rfl

@[simp] theorem enterHandler_tlbacc (c : Cause) (v : Word) (s : State) : (enterHandler c v s).tlbacc = s.tlbacc := rfl

@[simp] theorem enterHandler_tlbmisc (c : Cause) (v : Word) (s : State) : (enterHandler c v s).tlbmisc = s.tlbmisc := rfl

@[simp] theorem enterHandler_ctl11 (c : Cause) (v : Word) (s : State) : (enterHandler c v s).ctl11 = s.ctl11 := rfl

@[simp] theorem enterHandler_badaddr (c : Cause) (v : Word) (s : State) : (enterHandler c v s).badaddr = s.badaddr := rfl

@[simp] theorem enterHandler_configReg (c : Cause) (v : Word) (s : State) : (enterHandler c v s).configReg = s.configReg := rfl

@[simp] theorem enterHandler_ctlHigh (c : Cause) (v : Word) (s : State) : (enterHandler c v s).ctlHigh = s.ctlHigh := rfl

@[simp] theorem enterHandler_tlb (c : Cause) (v : Word) (s : State) : (enterHandler c v s).tlb = s.tlb := rfl

@[simp] theorem enterHandler_lines (c : Cause) (v : Word) (s : State) : (enterHandler c v s).lines = s.lines := rfl

@[simp] theorem enterHandler_mem (c : Cause) (v : Word) (s : State) : (enterHandler c v s).mem = s.mem := rfl

@[simp] theorem enterHandler_breakpoints (c : Cause) (v : Word) (s : State) : (enterHandler c v s).breakpoints = s.breakpoints := rfl

@[simp] theorem enterHandler_stopFlag (c : Cause) (v : Word) (s : State) : (enterHandler c v s).stopFlag = s.stopFlag := rfl

@[simp] theorem enterHandler_run (c : Cause) (v : Word) (s : State) : (enterHandler c v s).run = s.run := rfl

@[simp] theorem enterHandler_blockBoundary (c : Cause) (v : Word) (s : State) : (enterHandler c v s).blockBoundary = true := rfl

@[simp] theorem enterHandler_blockCount (c : Cause) (v : Word) (s : State) : (enterHandler c v s).blockCount = s.blockCount := rfl

@[simp] theorem enterHandler_draws (c : Cause) (v : Word) (s : State) : (enterHandler c v s).draws = s.draws := rfl

/-! ### dispatch -/

@[simp] theorem dispatch_cfg (c : Cause) (pc : Word) (s : State) : (dispatch c pc s).cfg = s.cfg := by simp [dispatch]

@[simp] theorem dispatch_pc (c : Cause) (pc : Word) (s : State) : (dispatch c pc s).pc = vectorOf c s := by simp [dispatch]

@[simp] theorem dispatch_status (c : Cause) (pc : Word) (s : State) : (dispatch c pc s).status = handlerStatus s.status := by simp [dispatch]

@[simp] theorem dispatch_ienable (c : Cause) (pc : Word) (s : State) : (dispatch c pc s).ienable = s.ienable := by simp [dispatch]

@[simp] theorem dispatch_cpuid (c : Cause) (pc : Word) (s : State) : (dispatch c pc s).cpuid = s.cpuid := by simp [dispatch]

@[simp] theorem dispatch_ctl6 (c : Cause) (pc : Word) (s : State) : (dispatch c pc s).ctl6 = s.ctl6 := by simp [dispatch]

@[simp] theorem dispatch_exception (c : Cause) (pc : Word) (s : State) : (dispatch c pc s).exception = setExceptionCause s.exception c.code := by simp [dispatch]

@[simp] theorem dispatch_pteaddr (c : Cause) (pc : Word) (s : State) : (dispatch c pc s).pteaddr = s.pteaddr := by simp [dispatch]

@[simp] theorem dispatch_tlbacc (c : Cause) (pc : Word) (s : State) : (dispatch c pc s).tlbacc = s.tlbacc := by simp [dispatch]

@[simp] theorem dispatch_ctl11 (c : Cause) (pc : Word) (s : State) : (dispatch c pc s).ctl11 = s.ctl11 := by simp [dispatch]

@[simp] theorem dispatch_badaddr (c : Cause) (pc : Word) (s : State) : (dispatch c pc s).badaddr = s.badaddr := by simp [dispatch]

@[simp] theorem dispatch_configReg (c : Cause) (pc : Word) (s : State) : (dispatch c pc s).configReg = s.configReg := by simp [dispatch]

@[simp] theorem dispatch_ctlHigh (c : Cause) (pc : Word) (s : State) : (dispatch c pc s).ctlHigh = s.ctlHigh := by simp [dispatch]

@[simp] theorem dispatch_tlb (c : Cause) (pc : Word) (s : State) : (dispatch c pc s).tlb = s.tlb := by simp [dispatch]

@[simp] theorem dispatch_lines (c : Cause) (pc : Word) (s : State) : (dispatch c pc s).lines = s.lines := by simp [dispatch]

@[simp] theorem dispatch_mem (c : Cause) (pc : Word) (s : State) : (dispatch c pc s).mem = s.mem := by simp [dispatch]

@[simp] theorem dispatch_breakpoints (c : Cause) (pc : Word) (s : State) : (dispatch c pc s).breakpoints = s.breakpoints := by simp [dispatch]

@[simp] theorem dispatch_stopFlag (c : Cause) (pc : Word) (s : State) : (dispatch c pc s).stopFlag = s.stopFlag := by simp [dispatch]

@[simp] theorem dispatch_run (c : Cause) (pc : Word) (s : State) : (dispatch c pc s).run = s.run := by simp [dispatch]

@[simp] theorem dispatch_blockBoundary (c : Cause) (pc : Word) (s : State) : (dispatch c pc s).blockBoundary = true := by simp [dispatch]

@[simp] theorem dispatch_blockCount (c : Cause) (pc : Word) (s : State) : (dispatch c pc s).blockCount = s.blockCount := by simp [dispatch]

@[simp] theorem dispatch_draws (c : Cause) (pc : Word) (s : State) : (dispatch c pc s).draws = s.draws := by simp [dispatch]

/-! ### returnFromException -/

@[simp] theorem returnFromException_cfg (t : Word) (s : State) : (returnFromException t s).cfg = s.cfg := rfl

@[simp] theorem returnFromException_x (t : Word) (s : State) : (returnFromException t s).x = s.x := rfl

@[simp] theorem returnFromException_pc (t : Word) (s : State) : (returnFromException t s).pc = t := rfl

@[simp] theorem returnFromException_status (t : Word) (s : State) : (returnFromException t s).status = s.estatus := rfl

@[simp] theorem returnFromException_estatus (t : Word) (s : State) : (returnFromException t s).estatus = s.estatus := rfl

@[simp] theorem returnFromException_bstatus (t : Word) (s : State) : (returnFromException t s).bstatus = s.bstatus := rfl

@[simp] theorem returnFromException_ienable (t : Word) (s : State) : (returnFromException t s).ienable = s.ienable := rfl

@[simp] theorem returnFromException_cpuid (t : Word) (s : State) : (returnFromException t s).cpuid = s.cpuid := rfl

@[simp] theorem returnFromException_ctl6 (t : Word) (s : State) : (returnFromException t s).ctl6 = s.ctl6 := rfl

@[simp] theorem returnFromException_exception (t : Word) (s : State) : (returnFromException t s).exception = s.exception := rfl

@[simp] theorem returnFromException_pteaddr (t : Word) (s : State) : (returnFromException t s).pteaddr = s.pteaddr := rfl

@[simp] theorem returnFromException_tlbacc (t : Word) (s : State) : (returnFromException t s).tlbacc = s.tlbacc := rfl

@[simp] theorem returnFromException_tlbmisc (t : Word) (s : State) : (returnFromException t s).tlbmisc = s.tlbmisc := rfl

@[simp] theorem returnFromException_ctl11 (t : Word) (s : State) : (returnFromException t s).ctl11 = s.ctl11 := rfl

@[simp] theorem returnFromException_badaddr (t : Word) (s : State) : (returnFromException t s).badaddr = s.badaddr := rfl

@[simp] theorem returnFromException_configReg (t : Word) (s : State) : (returnFromException t s).configReg = s.configReg := rfl

@[simp] theorem returnFromException_ctlHigh (t : Word) (s : State) : (returnFromException t s).ctlHigh = s.ctlHigh := rfl

@[simp] theorem returnFromException_tlb (t : Word) (s : State) : (returnFromException t s).tlb = s.tlb := rfl

@[simp] theorem returnFromException_lines (t : Word) (s : State) : (returnFromException t s).lines = s.lines := rfl

@[simp] theorem returnFromException_mem (t : Word) (s : State) : (returnFromException t s).mem = s.mem := rfl

@[simp] theorem returnFromException_breakpoints (t : Word) (s : State) : (returnFromException t s).breakpoints = s.breakpoints := rfl

@[simp] theorem returnFromException_stopFlag (t : Word) (s : State) : (returnFromException t s).stopFlag = s.stopFlag := rfl

@[simp] theorem returnFromException_run (t : Word) (s : State) : (returnFromException t s).run = s.run := rfl

@[simp] theorem returnFromException_blockBoundary (t : Word) (s : State) : (returnFromException t s).blockBoundary = true := rfl

@[simp] theorem returnFromException_blockCount (t : Word) (s : State) : (returnFromException t s).blockCount = s.blockCount := rfl

@[simp] theorem returnFromException_draws (t : Word) (s : State) : (returnFromException t s).draws = s.draws := rfl

/-! ### returnFromBreak -/

@[simp] theorem returnFromBreak_cfg (t : Word) (s : State) : (returnFromBreak t s).cfg = s.cfg := rfl

@[simp] theorem returnFromBreak_x (t : Word) (s : State) : (returnFromBreak t s).x = s.x := rfl

@[simp] theorem returnFromBreak_pc (t : Word) (s : State) : (returnFromBreak t s).pc = t := rfl

@[simp] theorem returnFromBreak_status (t : Word) (s : State) : (returnFromBreak t s).status = s.status := rfl

@[simp] theorem returnFromBreak_estatus (t : Word) (s : State) : (returnFromBreak t s).estatus = s.estatus := rfl

@[simp] theorem returnFromBreak_bstatus (t : Word) (s : State) : (returnFromBreak t s).bstatus = s.bstatus := rfl

@[simp] theorem returnFromBreak_ienable (t : Word) (s : State) : (returnFromBreak t s).ienable = s.ienable := rfl

@[simp] theorem returnFromBreak_cpuid (t : Word) (s : State) : (returnFromBreak t s).cpuid = s.cpuid := rfl

@[simp] theorem returnFromBreak_ctl6 (t : Word) (s : State) : (returnFromBreak t s).ctl6 = s.ctl6 := rfl

@[simp] theorem returnFromBreak_exception (t : Word) (s : State) : (returnFromBreak t s).exception = s.exception := rfl

@[simp] theorem returnFromBreak_pteaddr (t : Word) (s : State) : (returnFromBreak t s).pteaddr = s.pteaddr := rfl

@[simp] theorem returnFromBreak_tlbacc (t : Word) (s : State) : (returnFromBreak t s).tlbacc = s.tlbacc := rfl

@[simp] theorem returnFromBreak_tlbmisc (t : Word) (s : State) : (returnFromBreak t s).tlbmisc = s.tlbmisc := rfl

@[simp] theorem returnFromBreak_ctl11 (t : Word) (s : State) : (returnFromBreak t s).ctl11 = s.ctl11 := rfl

@[simp] theorem returnFromBreak_badaddr (t : Word) (s : State) : (returnFromBreak t s).badaddr = s.badaddr := rfl

@[simp] theorem returnFromBreak_configReg (t : Word) (s : State) : (returnFromBreak t s).configReg = s.configReg := rfl

@[simp] theorem returnFromBreak_ctlHigh (t : Word) (s : State) : (returnFromBreak t s).ctlHigh = s.ctlHigh := rfl

@[simp] theorem returnFromBreak_tlb (t : Word) (s : State) : (returnFromBreak t s).tlb = s.tlb := rfl

@[simp] theorem returnFromBreak_lines (t : Word) (s : State) : (returnFromBreak t s).lines = s.lines := rfl

@[simp] theorem returnFromBreak_mem (t : Word) (s : State) : (returnFromBreak t s).mem = s.mem := rfl

@[simp] theorem returnFromBreak_breakpoints (t : Word) (s : State) : (returnFromBreak t s).breakpoints = s.breakpoints := rfl

@[simp] theorem returnFromBreak_stopFlag (t : Word) (s : State) : (returnFromBreak t s).stopFlag = s.stopFlag := rfl

@[simp] theorem returnFromBreak_run (t : Word) (s : State) : (returnFromBreak t s).run = s.run := rfl

@[simp] theorem returnFromBreak_blockBoundary (t : Word) (s : State) : (returnFromBreak t s).blockBoundary = true := rfl

@[simp] theorem returnFromBreak_blockCount (t : Word) (s : State) : (returnFromBreak t s).blockCount = s.blockCount := rfl

@[simp] theorem returnFromBreak_draws (t : Word) (s : State) : (returnFromBreak t s).draws = s.draws := rfl

/-! ### recordFault -/

@[simp] theorem recordFault_cfg (f : MemFault) (k : AccessKind) (va : Word) (s : State) : (recordFault f k va s).cfg = s.cfg := by cases f <;> rfl

@[simp] theorem recordFault_x (f : MemFault) (k : AccessKind) (va : Word) (s : State) : (recordFault f k va s).x = s.x := by cases f <;> rfl

@[simp] theorem recordFault_pc (f : MemFault) (k : AccessKind) (va : Word) (s : State) : (recordFault f k va s).pc = s.pc := by cases f <;> rfl

@[simp] theorem recordFault_status (f : MemFault) (k : AccessKind) (va : Word) (s : State) : (recordFault f k va s).status = s.status := by cases f <;> rfl

@[simp] theorem recordFault_estatus (f : MemFault) (k : AccessKind) (va : Word) (s : State) : (recordFault f k va s).estatus = s.estatus := by cases f <;> rfl

@[simp] theorem recordFault_bstatus (f : MemFault) (k : AccessKind) (va : Word) (s : State) : (recordFault f k va s).bstatus = s.bstatus := by cases f <;> rfl

@[simp] theorem recordFault_ienable (f : MemFault) (k : AccessKind) (va : Word) (s : State) : (recordFault f k va s).ienable = s.ienable := by cases f <;> rfl

@[simp] theorem recordFault_cpuid (f : MemFault) (k : AccessKind) (va : Word) (s : State) : (recordFault f k va s).cpuid = s.cpuid := by cases f <;> rfl

@[simp] theorem recordFault_ctl6 (f : MemFault) (k : AccessKind) (va : Word) (s : State) : (recordFault f k va s).ctl6 = s.ctl6 := by cases f <;> rfl

@[simp] theorem recordFault_exception (f : MemFault) (k : AccessKind) (va : Word) (s : State) : (recordFault f k va s).exception = s.exception := by cases f <;> rfl

@[simp] theorem recordFault_tlbacc (f : MemFault) (k : AccessKind) (va : Word) (s : State) : (recordFault f k va s).tlbacc = s.tlbacc := by cases f <;> rfl

@[simp] theorem recordFault_ctl11 (f : MemFault) (k : AccessKind) (va : Word) (s : State) : (recordFault f k va s).ctl11 = s.ctl11 := by cases f <;> rfl

@[simp] theorem recordFault_badaddr (f : MemFault) (k : AccessKind) (va : Word) (s : State) : (recordFault f k va s).badaddr = va := by cases f <;> rfl

@[simp] theorem recordFault_configReg (f : MemFault) (k : AccessKind) (va : Word) (s : State) : (recordFault f k va s).configReg = s.configReg := by cases f <;> rfl

@[simp] theorem recordFault_ctlHigh (f : MemFault) (k : AccessKind) (va : Word) (s : State) : (recordFault f k va s).ctlHigh = s.ctlHigh := by cases f <;> rfl

@[simp] theorem recordFault_tlb (f : MemFault) (k : AccessKind) (va : Word) (s : State) : (recordFault f k va s).tlb = s.tlb := by cases f <;> rfl

@[simp] theorem recordFault_lines (f : MemFault) (k : AccessKind) (va : Word) (s : State) : (recordFault f k va s).lines = s.lines := by cases f <;> rfl

@[simp] theorem recordFault_mem (f : MemFault) (k : AccessKind) (va : Word) (s : State) : (recordFault f k va s).mem = s.mem := by cases f <;> rfl

@[simp] theorem recordFault_breakpoints (f : MemFault) (k : AccessKind) (va : Word) (s : State) : (recordFault f k va s).breakpoints = s.breakpoints := by cases f <;> rfl

@[simp] theorem recordFault_stopFlag (f : MemFault) (k : AccessKind) (va : Word) (s : State) : (recordFault f k va s).stopFlag = s.stopFlag := by cases f <;> rfl

@[simp] theorem recordFault_run (f : MemFault) (k : AccessKind) (va : Word) (s : State) : (recordFault f k va s).run = s.run := by cases f <;> rfl

@[simp] theorem recordFault_blockBoundary (f : MemFault) (k : AccessKind) (va : Word) (s : State) : (recordFault f k va s).blockBoundary = s.blockBoundary := by cases f <;> rfl

@[simp] theorem recordFault_blockCount (f : MemFault) (k : AccessKind) (va : Word) (s : State) : (recordFault f k va s).blockCount = s.blockCount := by cases f <;> rfl

@[simp] theorem recordFault_draws (f : MemFault) (k : AccessKind) (va : Word) (s : State) : (recordFault f k va s).draws = s.draws := by cases f <;> rfl

/-! ### storeCtl -/

@[simp] theorem storeCtl_cfg (s : State) (n : RegNum) (v : Word) : (s.storeCtl n v).cfg = s.cfg := by unfold State.storeCtl; split <;> rfl

@[simp] theorem storeCtl_x (s : State) (n : RegNum) (v : Word) : (s.storeCtl n v).x = s.x := by unfold State.storeCtl; split <;> rfl

@[simp] theorem storeCtl_pc (s : State) (n : RegNum) (v : Word) : (s.storeCtl n v).pc = s.pc := by unfold State.storeCtl; split <;> rfl

@[simp] theorem storeCtl_tlb (s : State) (n : RegNum) (v : Word) : (s.storeCtl n v).tlb = s.tlb := by unfold State.storeCtl; split <;> rfl

@[simp] theorem storeCtl_lines (s : State) (n : RegNum) (v : Word) : (s.storeCtl n v).lines = s.lines := by unfold State.storeCtl; split <;> rfl

@[simp] theorem storeCtl_mem (s : State) (n : RegNum) (v : Word) : (s.storeCtl n v).mem = s.mem := by unfold State.storeCtl; split <;> rfl

@[simp] theorem storeCtl_breakpoints (s : State) (n : RegNum) (v : Word) : (s.storeCtl n v).breakpoints = s.breakpoints := by unfold State.storeCtl; split <;> rfl

@[simp] theorem storeCtl_stopFlag (s : State) (n : RegNum) (v : Word) : (s.storeCtl n v).stopFlag = s.stopFlag := by unfold State.storeCtl; split <;> rfl

@[simp] theorem storeCtl_run (s : State) (n : RegNum) (v : Word) : (s.storeCtl n v).run = s.run := by unfold State.storeCtl; split <;> rfl

@[simp] theorem storeCtl_blockBoundary (s : State) (n : RegNum) (v : Word) : (s.storeCtl n v).blockBoundary = s.blockBoundary := by unfold State.storeCtl; split <;> rfl

@[simp] theorem storeCtl_blockCount (s : State) (n : RegNum) (v : Word) : (s.storeCtl n v).blockCount = s.blockCount := by unfold State.storeCtl; split <;> rfl

@[simp] theorem storeCtl_draws (s : State) (n : RegNum) (v : Word) : (s.storeCtl n v).draws = s.draws := by unfold State.storeCtl; split <;> rfl

/-! ### tlbWrite -/

@[simp] theorem tlbWrite_cfg (s : State) : s.tlbWrite.cfg = s.cfg := by unfold State.tlbWrite; split <;> rfl

@[simp] theorem tlbWrite_x (s : State) : s.tlbWrite.x = s.x := by unfold State.tlbWrite; split <;> rfl

@[simp] theorem tlbWrite_pc (s : State) : s.tlbWrite.pc = s.pc := by unfold State.tlbWrite; split <;> rfl

@[simp] theorem tlbWrite_status (s : State) : s.tlbWrite.status = s.status := by unfold State.tlbWrite; split <;> rfl

@[simp] theorem tlbWrite_estatus (s : State) : s.tlbWrite.estatus = s.estatus := by unfold State.tlbWrite; split <;> rfl

@[simp] theorem tlbWrite_bstatus (s : State) : s.tlbWrite.bstatus = s.bstatus := by unfold State.tlbWrite; split <;> rfl

@[simp] theorem tlbWrite_ienable (s : State) : s.tlbWrite.ienable = s.ienable := by unfold State.tlbWrite; split <;> rfl

@[simp] theorem tlbWrite_cpuid (s : State) : s.tlbWrite.cpuid = s.cpuid := by unfold State.tlbWrite; split <;> rfl

@[simp] theorem tlbWrite_ctl6 (s : State) : s.tlbWrite.ctl6 = s.ctl6 := by unfold State.tlbWrite; split <;> rfl

@[simp] theorem tlbWrite_exception (s : State) : s.tlbWrite.exception = s.exception := by unfold State.tlbWrite; split <;> rfl

@[simp] theorem tlbWrite_pteaddr (s : State) : s.tlbWrite.pteaddr = s.pteaddr := by unfold State.tlbWrite; split <;> rfl

@[simp] theorem tlbWrite_tlbacc (s : State) : s.tlbWrite.tlbacc = s.tlbacc := by unfold State.tlbWrite; split <;> rfl

@[simp] theorem tlbWrite_ctl11 (s : State) : s.tlbWrite.ctl11 = s.ctl11 := by unfold State.tlbWrite; split <;> rfl

@[simp] theorem tlbWrite_badaddr (s : State) : s.tlbWrite.badaddr = s.badaddr := by unfold State.tlbWrite; split <;> rfl

@[simp] theorem tlbWrite_configReg (s : State) : s.tlbWrite.configReg = s.configReg := by unfold State.tlbWrite; split <;> rfl

@[simp] theorem tlbWrite_ctlHigh (s : State) : s.tlbWrite.ctlHigh = s.ctlHigh := by unfold State.tlbWrite; split <;> rfl

@[simp] theorem tlbWrite_lines (s : State) : s.tlbWrite.lines = s.lines := by unfold State.tlbWrite; split <;> rfl

@[simp] theorem tlbWrite_mem (s : State) : s.tlbWrite.mem = s.mem := by unfold State.tlbWrite; split <;> rfl

@[simp] theorem tlbWrite_breakpoints (s : State) : s.tlbWrite.breakpoints = s.breakpoints := by unfold State.tlbWrite; split <;> rfl

@[simp] theorem tlbWrite_stopFlag (s : State) : s.tlbWrite.stopFlag = s.stopFlag := by unfold State.tlbWrite; split <;> rfl

@[simp] theorem tlbWrite_run (s : State) : s.tlbWrite.run = s.run := by unfold State.tlbWrite; split <;> rfl

@[simp] theorem tlbWrite_blockBoundary (s : State) : s.tlbWrite.blockBoundary = s.blockBoundary := by unfold State.tlbWrite; split <;> rfl

@[simp] theorem tlbWrite_blockCount (s : State) : s.tlbWrite.blockCount = s.blockCount := by unfold State.tlbWrite; split <;> rfl

@[simp] theorem tlbWrite_draws (s : State) : s.tlbWrite.draws = s.draws := by unfold State.tlbWrite; split <;> rfl

/-! ### tlbRead -/

@[simp] theorem tlbRead_cfg (s : State) : s.tlbRead.cfg = s.cfg := rfl

@[simp] theorem tlbRead_x (s : State) : s.tlbRead.x = s.x := rfl

@[simp] theorem tlbRead_pc (s : State) : s.tlbRead.pc = s.pc := rfl

@[simp] theorem tlbRead_status (s : State) : s.tlbRead.status = s.status := rfl

@[simp] theorem tlbRead_estatus (s : State) : s.tlbRead.estatus = s.estatus := rfl

@[simp] theorem tlbRead_bstatus (s : State) : s.tlbRead.bstatus = s.bstatus := rfl

@[simp] theorem tlbRead_ienable (s : State) : s.tlbRead.ienable = s.ienable := rfl

@[simp] theorem tlbRead_cpuid (s : State) : s.tlbRead.cpuid = s.cpuid := rfl

@[simp] theorem tlbRead_ctl6 (s : State) : s.tlbRead.ctl6 = s.ctl6 := rfl

@[simp] theorem tlbRead_exception (s : State) : s.tlbRead.exception = s.exception := rfl

@[simp] theorem tlbRead_ctl11 (s : State) : s.tlbRead.ctl11 = s.ctl11 := rfl

@[simp] theorem tlbRead_badaddr (s : State) : s.tlbRead.badaddr = s.badaddr := rfl

@[simp] theorem tlbRead_configReg (s : State) : s.tlbRead.configReg = s.configReg := rfl

@[simp] theorem tlbRead_ctlHigh (s : State) : s.tlbRead.ctlHigh = s.ctlHigh := rfl

@[simp] theorem tlbRead_tlb (s : State) : s.tlbRead.tlb = s.tlb := rfl

@[simp] theorem tlbRead_lines (s : State) : s.tlbRead.lines = s.lines := rfl

@[simp] theorem tlbRead_mem (s : State) : s.tlbRead.mem = s.mem := rfl

@[simp] theorem tlbRead_breakpoints (s : State) : s.tlbRead.breakpoints = s.breakpoints := rfl

@[simp] theorem tlbRead_stopFlag (s : State) : s.tlbRead.stopFlag = s.stopFlag := rfl

@[simp] theorem tlbRead_run (s : State) : s.tlbRead.run = s.run := rfl

@[simp] theorem tlbRead_blockBoundary (s : State) : s.tlbRead.blockBoundary = s.blockBoundary := rfl

@[simp] theorem tlbRead_blockCount (s : State) : s.tlbRead.blockCount = s.blockCount := rfl

@[simp] theorem tlbRead_draws (s : State) : s.tlbRead.draws = s.draws := rfl

/-! ### writeCtl -/

@[simp] theorem writeCtl_cfg (s : State) (n : RegNum) (v : Word) : (s.writeCtl n v).cfg = s.cfg := by unfold State.writeCtl; split <;> [simp; (split <;> simp)]

@[simp] theorem writeCtl_x (s : State) (n : RegNum) (v : Word) : (s.writeCtl n v).x = s.x := by unfold State.writeCtl; split <;> [simp; (split <;> simp)]

@[simp] theorem writeCtl_pc (s : State) (n : RegNum) (v : Word) : (s.writeCtl n v).pc = s.pc := by unfold State.writeCtl; split <;> [simp; (split <;> simp)]

@[simp] theorem writeCtl_lines (s : State) (n : RegNum) (v : Word) : (s.writeCtl n v).lines = s.lines := by unfold State.writeCtl; split <;> [simp; (split <;> simp)]

@[simp] theorem writeCtl_mem (s : State) (n : RegNum) (v : Word) : (s.writeCtl n v).mem = s.mem := by unfold State.writeCtl; split <;> [simp; (split <;> simp)]

@[simp] theorem writeCtl_breakpoints (s : State) (n : RegNum) (v : Word) : (s.writeCtl n v).breakpoints = s.breakpoints := by unfold State.writeCtl; split <;> [simp; (split <;> simp)]

@[simp] theorem writeCtl_stopFlag (s : State) (n : RegNum) (v : Word) : (s.writeCtl n v).stopFlag = s.stopFlag := by unfold State.writeCtl; split <;> [simp; (split <;> simp)]

@[simp] theorem writeCtl_run (s : State) (n : RegNum) (v : Word) : (s.writeCtl n v).run = s.run := by unfold State.writeCtl; split <;> [simp; (split <;> simp)]

@[simp] theorem writeCtl_blockBoundary (s : State) (n : RegNum) (v : Word) : (s.writeCtl n v).blockBoundary = s.blockBoundary := by unfold State.writeCtl; split <;> [simp; (split <;> simp)]

@[simp] theorem writeCtl_blockCount (s : State) (n : RegNum) (v : Word) : (s.writeCtl n v).blockCount = s.blockCount := by unfold State.writeCtl; split <;> [simp; (split <;> simp)]

@[simp] theorem writeCtl_draws (s : State) (n : RegNum) (v : Word) : (s.writeCtl n v).draws = s.draws := by unfold State.writeCtl; split <;> [simp; (split <;> simp)]

/-! ### beginStep -/

@[simp] theorem beginStep_cfg (s : State) : s.beginStep.cfg = s.cfg := rfl

@[simp] theorem beginStep_x (s : State) : s.beginStep.x = s.x := rfl

@[simp] theorem beginStep_pc (s : State) : s.beginStep.pc = s.pc := rfl

@[simp] theorem beginStep_status (s : State) : s.beginStep.status = s.status := rfl

@[simp] theorem beginStep_estatus (s : State) : s.beginStep.estatus = s.estatus := rfl

@[simp] theorem beginStep_bstatus (s : State) : s.beginStep.bstatus = s.bstatus := rfl

@[simp] theorem beginStep_ienable (s : State) : s.beginStep.ienable = s.ienable := rfl

@[simp] theorem beginStep_cpuid (s : State) : s.beginStep.cpuid = s.cpuid := rfl

@[simp] theorem beginStep_ctl6 (s : State) : s.beginStep.ctl6 = s.ctl6 := rfl

@[simp] theorem beginStep_exception (s : State) : s.beginStep.exception = s.exception := rfl

@[simp] theorem beginStep_pteaddr (s : State) : s.beginStep.pteaddr = s.pteaddr := rfl

@[simp] theorem beginStep_tlbacc (s : State) : s.beginStep.tlbacc = s.tlbacc := rfl

@[simp] theorem beginStep_tlbmisc (s : State) : s.beginStep.tlbmisc = s.tlbmisc := rfl

@[simp] theorem beginStep_ctl11 (s : State) : s.beginStep.ctl11 = s.ctl11 := rfl

@[simp] theorem beginStep_badaddr (s : State) : s.beginStep.badaddr = s.badaddr := rfl

@[simp] theorem beginStep_configReg (s : State) : s.beginStep.configReg = s.configReg := rfl

@[simp] theorem beginStep_ctlHigh (s : State) : s.beginStep.ctlHigh = s.ctlHigh := rfl

@[simp] theorem beginStep_tlb (s : State) : s.beginStep.tlb = s.tlb := rfl

@[simp] theorem beginStep_lines (s : State) : s.beginStep.lines = s.lines := rfl

@[simp] theorem beginStep_mem (s : State) : s.beginStep.mem = s.mem := rfl

@[simp] theorem beginStep_breakpoints (s : State) : s.beginStep.breakpoints = s.breakpoints := rfl

@[simp] theorem beginStep_stopFlag (s : State) : s.beginStep.stopFlag = s.stopFlag := rfl

@[simp] theorem beginStep_run (s : State) : s.beginStep.run = .running := rfl

@[simp] theorem beginStep_blockBoundary (s : State) : s.beginStep.blockBoundary = false := rfl

@[simp] theorem beginStep_blockCount (s : State) : s.beginStep.blockCount = s.blockCount := rfl

@[simp] theorem beginStep_draws (s : State) : s.beginStep.draws = s.draws := rfl

/-! ### endStep -/

@[simp] theorem endStep_cfg (s t : State) : (s.endStep t).cfg = t.cfg := rfl

@[simp] theorem endStep_x (s t : State) : (s.endStep t).x = t.x := rfl

@[simp] theorem endStep_pc (s t : State) : (s.endStep t).pc = t.pc := rfl

@[simp] theorem endStep_status (s t : State) : (s.endStep t).status = t.status := rfl

@[simp] theorem endStep_estatus (s t : State) : (s.endStep t).estatus = t.estatus := rfl

@[simp] theorem endStep_bstatus (s t : State) : (s.endStep t).bstatus = t.bstatus := rfl

@[simp] theorem endStep_ienable (s t : State) : (s.endStep t).ienable = t.ienable := rfl

@[simp] theorem endStep_cpuid (s t : State) : (s.endStep t).cpuid = t.cpuid := rfl

@[simp] theorem endStep_ctl6 (s t : State) : (s.endStep t).ctl6 = t.ctl6 := rfl

@[simp] theorem endStep_exception (s t : State) : (s.endStep t).exception = t.exception := rfl

@[simp] theorem endStep_pteaddr (s t : State) : (s.endStep t).pteaddr = t.pteaddr := rfl

@[simp] theorem endStep_tlbacc (s t : State) : (s.endStep t).tlbacc = t.tlbacc := rfl

@[simp] theorem endStep_tlbmisc (s t : State) : (s.endStep t).tlbmisc = t.tlbmisc := rfl

@[simp] theorem endStep_ctl11 (s t : State) : (s.endStep t).ctl11 = t.ctl11 := rfl

@[simp] theorem endStep_badaddr (s t : State) : (s.endStep t).badaddr = t.badaddr := rfl

@[simp] theorem endStep_configReg (s t : State) : (s.endStep t).configReg = t.configReg := rfl

@[simp] theorem endStep_ctlHigh (s t : State) : (s.endStep t).ctlHigh = t.ctlHigh := rfl

@[simp] theorem endStep_tlb (s t : State) : (s.endStep t).tlb = t.tlb := rfl

@[simp] theorem endStep_lines (s t : State) : (s.endStep t).lines = t.lines := rfl

@[simp] theorem endStep_mem (s t : State) : (s.endStep t).mem = t.mem := rfl

@[simp] theorem endStep_breakpoints (s t : State) : (s.endStep t).breakpoints = t.breakpoints := rfl

@[simp] theorem endStep_stopFlag (s t : State) : (s.endStep t).stopFlag = t.stopFlag := rfl

@[simp] theorem endStep_run (s t : State) : (s.endStep t).run = t.run := rfl

@[simp] theorem endStep_draws (s t : State) : (s.endStep t).draws = s.draws + 1 := rfl

end Sys2Proof.Machine
end

