-- ==== Sys2Proof/Laws/Ops.lean ====
section
/-! SUPPORT. Registers, control registers, and what each shared operation can do, said once. -/

namespace Sys2Proof.Machine

/-! ### General registers -/

theorem regIndex_inj {q r : RegNum} : (regIndex q).val = (regIndex r).val ↔ q = r := by
  simp only [regIndex]
  exact ⟨BitVec.eq_of_toNat_eq, congrArg BitVec.toNat⟩

@[simp] theorem writeReg_hardwired (s : State) (r : RegNum) (v : Word) (q : RegNum) : (s.writeReg r v).hardwired q = s.hardwired q := by simp [State.hardwired]

@[simp] theorem advance_hardwired (s : State) (q : RegNum) : s.advance.hardwired q = s.hardwired q := by simp [State.hardwired]

@[simp] theorem endBlock_hardwired (s : State) (q : RegNum) : s.endBlock.hardwired q = s.hardwired q := by simp [State.hardwired]

@[simp] theorem jumpTo_hardwired (s : State) (t : Word) (q : RegNum) : (s.jumpTo t).hardwired q = s.hardwired q := by simp [State.hardwired]

@[simp] theorem returnToHost_hardwired (s : State) (w : ReturnReason) (q : RegNum) : (s.returnToHost w).hardwired q = s.hardwired q := by simp [State.hardwired]

@[simp] theorem saveContext_hardwired (c : Cause) (pc : Word) (s : State) (q : RegNum) : (saveContext c pc s).hardwired q = s.hardwired q := by simp [State.hardwired]

@[simp] theorem markTlbmisc_hardwired (c : Cause) (s : State) (q : RegNum) : (markTlbmisc c s).hardwired q = s.hardwired q := by simp [State.hardwired]

@[simp] theorem enterHandler_hardwired (c : Cause) (v : Word) (s : State) (q : RegNum) : (enterHandler c v s).hardwired q = s.hardwired q := by simp [State.hardwired]

@[simp] theorem dispatch_hardwired (c : Cause) (pc : Word) (s : State) (q : RegNum) : (dispatch c pc s).hardwired q = s.hardwired q := by simp [State.hardwired]

@[simp] theorem returnFromException_hardwired (t : Word) (s : State) (q : RegNum) : (returnFromException t s).hardwired q = s.hardwired q := by simp [State.hardwired]

@[simp] theorem returnFromBreak_hardwired (t : Word) (s : State) (q : RegNum) : (returnFromBreak t s).hardwired q = s.hardwired q := by simp [State.hardwired]

@[simp] theorem recordFault_hardwired (f : MemFault) (k : AccessKind) (va : Word) (s : State) (q : RegNum) : (recordFault f k va s).hardwired q = s.hardwired q := by simp [State.hardwired]

@[simp] theorem storeCtl_hardwired (s : State) (n : RegNum) (v : Word) (q : RegNum) : (s.storeCtl n v).hardwired q = s.hardwired q := by simp [State.hardwired]

@[simp] theorem tlbWrite_hardwired (s : State) (q : RegNum) : s.tlbWrite.hardwired q = s.hardwired q := by simp [State.hardwired]

@[simp] theorem tlbRead_hardwired (s : State) (q : RegNum) : s.tlbRead.hardwired q = s.hardwired q := by simp [State.hardwired]

@[simp] theorem writeCtl_hardwired (s : State) (n : RegNum) (v : Word) (q : RegNum) : (s.writeCtl n v).hardwired q = s.hardwired q := by simp [State.hardwired]

@[simp] theorem beginStep_hardwired (s : State) (q : RegNum) : s.beginStep.hardwired q = s.hardwired q := by simp [State.hardwired]

@[simp] theorem endStep_hardwired (s t : State) (q : RegNum) : (s.endStep t).hardwired q = t.hardwired q := by simp [State.hardwired]

/-- A read after a write: the value, unless the write was to another register or discarded. -/
theorem readReg_writeReg (s : State) (r : RegNum) (v : Word) (q : RegNum) :
    (s.writeReg r v).readReg q = regAfter s r v q := by
  unfold State.readReg regAfter
  rw [writeReg_hardwired]
  by_cases hr : s.hardwired r = true
  · have hw : s.writeReg r v = s := by simp [State.writeReg, hr]
    simp [hr, hw, State.readReg]
  · have hx : (s.writeReg r v).x = s.x.set (regIndex r) v (regIndex r).isLt := by simp [State.writeReg, hr]
    by_cases hq : q = r
    · subst hq
      simp [hr, hx, Vector.get]
    · have hi : ¬ (regIndex r).val = (regIndex q).val := fun e => hq (regIndex_inj.mp e).symm
      have hg : (s.x.set (regIndex r) v (regIndex r).isLt).get (regIndex q) = s.x.get (regIndex q) := by
        show (s.x.set (regIndex r) v (regIndex r).isLt)[(regIndex q).val] = s.x[(regIndex q).val]
        rw [Vector.getElem_set_ne _ _ hi]
      simp [hq, hx, hg, State.readReg]

/-- Reading depends on the register file and the parameters alone. -/
theorem readReg_congr {s t : State} (hx : t.x = s.x) (hc : t.cfg = s.cfg) (q : RegNum) : t.readReg q = s.readReg q := by
  simp [State.readReg, State.hardwired, hx, hc]

@[simp] theorem advance_readReg (s : State) (q : RegNum) : s.advance.readReg q = s.readReg q :=
  readReg_congr (by simp) (by simp) q

@[simp] theorem endBlock_readReg (s : State) (q : RegNum) : s.endBlock.readReg q = s.readReg q :=
  readReg_congr (by simp) (by simp) q

@[simp] theorem jumpTo_readReg (s : State) (t : Word) (q : RegNum) : (s.jumpTo t).readReg q = s.readReg q :=
  readReg_congr (by simp) (by simp) q

@[simp] theorem returnToHost_readReg (s : State) (w : ReturnReason) (q : RegNum) : (s.returnToHost w).readReg q = s.readReg q :=
  readReg_congr (by simp) (by simp) q

@[simp] theorem markTlbmisc_readReg (c : Cause) (s : State) (q : RegNum) : (markTlbmisc c s).readReg q = s.readReg q :=
  readReg_congr (by simp) (by simp) q

@[simp] theorem enterHandler_readReg (c : Cause) (v : Word) (s : State) (q : RegNum) : (enterHandler c v s).readReg q = s.readReg q :=
  readReg_congr (by simp) (by simp) q

@[simp] theorem returnFromException_readReg (t : Word) (s : State) (q : RegNum) : (returnFromException t s).readReg q = s.readReg q :=
  readReg_congr (by simp) (by simp) q

@[simp] theorem returnFromBreak_readReg (t : Word) (s : State) (q : RegNum) : (returnFromBreak t s).readReg q = s.readReg q :=
  readReg_congr (by simp) (by simp) q

@[simp] theorem recordFault_readReg (f : MemFault) (k : AccessKind) (va : Word) (s : State) (q : RegNum) : (recordFault f k va s).readReg q = s.readReg q :=
  readReg_congr (by simp) (by simp) q

@[simp] theorem storeCtl_readReg (s : State) (n : RegNum) (v : Word) (q : RegNum) : (s.storeCtl n v).readReg q = s.readReg q :=
  readReg_congr (by simp) (by simp) q

@[simp] theorem tlbWrite_readReg (s : State) (q : RegNum) : s.tlbWrite.readReg q = s.readReg q :=
  readReg_congr (by simp) (by simp) q

@[simp] theorem tlbRead_readReg (s : State) (q : RegNum) : s.tlbRead.readReg q = s.readReg q :=
  readReg_congr (by simp) (by simp) q

@[simp] theorem writeCtl_readReg (s : State) (n : RegNum) (v : Word) (q : RegNum) : (s.writeCtl n v).readReg q = s.readReg q :=
  readReg_congr (by simp) (by simp) q

@[simp] theorem beginStep_readReg (s : State) (q : RegNum) : s.beginStep.readReg q = s.readReg q :=
  readReg_congr (by simp) (by simp) q

@[simp] theorem endStep_readReg (s t : State) (q : RegNum) : (s.endStep t).readReg q = t.readReg q :=
  readReg_congr (by simp) (by simp) q

/-! ### Control registers -/

/-- What `rdctl` sees depends on the control registers and the lines alone. -/
theorem readCtl_congr {s t : State} (h0 : t.status = s.status) (h1 : t.estatus = s.estatus) (h2 : t.bstatus = s.bstatus)
    (h3 : t.ienable = s.ienable) (h4 : t.lines = s.lines) (h5 : t.cpuid = s.cpuid) (h6 : t.ctl6 = s.ctl6)
    (h7 : t.exception = s.exception) (h8 : t.pteaddr = s.pteaddr) (h9 : t.tlbacc = s.tlbacc)
    (h10 : t.tlbmisc = s.tlbmisc) (h11 : t.ctl11 = s.ctl11) (h12 : t.badaddr = s.badaddr)
    (h13 : t.configReg = s.configReg) (h14 : t.ctlHigh = s.ctlHigh) : KeepsCtl s t := by
  intro n
  simp only [State.readCtl, State.pending, h0, h1, h2, h3, h4, h5, h6, h7, h8, h9, h10, h11, h12, h13, h14]

@[simp] theorem writeReg_readCtl (s : State) (r : RegNum) (v : Word) (n : RegNum) : (s.writeReg r v).readCtl n = s.readCtl n :=
  readCtl_congr (by simp) (by simp) (by simp) (by simp) (by simp) (by simp) (by simp) (by simp) (by simp) (by simp) (by simp)
    (by simp) (by simp) (by simp) (by simp) n

@[simp] theorem advance_readCtl (s : State) (n : RegNum) : s.advance.readCtl n = s.readCtl n :=
  readCtl_congr (by simp) (by simp) (by simp) (by simp) (by simp) (by simp) (by simp) (by simp) (by simp) (by simp) (by simp)
    (by simp) (by simp) (by simp) (by simp) n

@[simp] theorem endBlock_readCtl (s : State) (n : RegNum) : s.endBlock.readCtl n = s.readCtl n :=
  readCtl_congr (by simp) (by simp) (by simp) (by simp) (by simp) (by simp) (by simp) (by simp) (by simp) (by simp) (by simp)
    (by simp) (by simp) (by simp) (by simp) n

@[simp] theorem jumpTo_readCtl (s : State) (t : Word) (n : RegNum) : (s.jumpTo t).readCtl n = s.readCtl n :=
  readCtl_congr (by simp) (by simp) (by simp) (by simp) (by simp) (by simp) (by simp) (by simp) (by simp) (by simp) (by simp)
    (by simp) (by simp) (by simp) (by simp) n

@[simp] theorem returnToHost_readCtl (s : State) (w : ReturnReason) (n : RegNum) : (s.returnToHost w).readCtl n = s.readCtl n :=
  readCtl_congr (by simp) (by simp) (by simp) (by simp) (by simp) (by simp) (by simp) (by simp) (by simp) (by simp) (by simp)
    (by simp) (by simp) (by simp) (by simp) n

@[simp] theorem returnFromBreak_readCtl (t : Word) (s : State) (n : RegNum) : (returnFromBreak t s).readCtl n = s.readCtl n :=
  readCtl_congr (by simp) (by simp) (by simp) (by simp) (by simp) (by simp) (by simp) (by simp) (by simp) (by simp) (by simp)
    (by simp) (by simp) (by simp) (by simp) n

@[simp] theorem beginStep_readCtl (s : State) (n : RegNum) : s.beginStep.readCtl n = s.readCtl n :=
  readCtl_congr (by simp) (by simp) (by simp) (by simp) (by simp) (by simp) (by simp) (by simp) (by simp) (by simp) (by simp)
    (by simp) (by simp) (by simp) (by simp) n

@[simp] theorem endStep_readCtl (s t : State) (n : RegNum) : (s.endStep t).readCtl n = t.readCtl n :=
  readCtl_congr (by simp) (by simp) (by simp) (by simp) (by simp) (by simp) (by simp) (by simp) (by simp) (by simp) (by simp)
    (by simp) (by simp) (by simp) (by simp) n

/-! ### The mode bits -/

theorem pie_congr {s t : State} (h : t.status = s.status) : t.pie = s.pie := by simp [State.pie, h]

theorem user_congr {s t : State} (h : t.status = s.status) : t.user = s.user := by simp [State.user, h]

theorem eh_congr {s t : State} (h : t.status = s.status) : t.eh = s.eh := by simp [State.eh, h]

/-! ### What each shared operation can answer -/

theorem writeResult_next {r : RegNum} {v : Word} {s t : State} (h : writeResult r v s = .next t) :
    t = (s.writeReg r v).advance := by
  cases h; rfl

theorem jumpRegister_next {u : Word} {s transfer t : State} (h : jumpRegister u s transfer = .next t) :
    (aligned4 u = true ∧ t = transfer) ∨
      (aligned4 u = false ∧ t = dispatch .misalignedDestinationAddress s.pc { s with badaddr := u }) := by
  unfold jumpRegister raiseMisalignedDestination at h
  split at h
  · next hu => cases h; exact .inl ⟨hu, rfl⟩
  · next hu => cases h; exact .inr ⟨by simpa using hu, rfl⟩

theorem memRead_next {va : Word} {n : Width} {s t : State} {f : Word → State} (h : memRead va n s f = .next t) :
    (∃ e, s.dataAddress va n .read = .error e ∧ t = raiseMemFault e .read va s) ∨
      (∃ pa, s.dataAddress va n .read = .ok pa ∧ s.backsAccess pa n = true ∧ t = f (s.mem.value pa n)) := by
  unfold memRead at h
  split at h
  · next e he => cases h; exact .inl ⟨e, he, rfl⟩
  · next pa hp =>
    split at h
    · next hb => cases h; exact .inr ⟨pa, hp, hb, rfl⟩
    · cases h

theorem memWrite_next {va : Word} {n : Width} {v : Word} {s t : State} {f : State → State}
    (h : memWrite va n v s f = .next t) :
    (∃ e, s.dataAddress va n .write = .error e ∧ t = raiseMemFault e .write va s) ∨
      (∃ pa, s.dataAddress va n .write = .ok pa ∧ s.backsAccess pa n = true ∧
        t = f { s with mem := s.mem.store pa n v }) := by
  unfold memWrite at h
  split at h
  · next e he => cases h; exact .inl ⟨e, he, rfl⟩
  · next pa hp =>
    split at h
    · next hb => cases h; exact .inr ⟨pa, hp, hb, rfl⟩
    · cases h

/-- A control-register write is a store, a store and a TLB write, or a store and a TLB read. -/
theorem writeCtl_cases (s : State) (n : RegNum) (v : Word) :
    s.writeCtl n v = s.storeCtl n v ∨
      (s.cfg.mmuPresent = true ∧ n = 9#5 ∧ s.writeCtl n v = (s.storeCtl n v).tlbWrite) ∨
      (s.cfg.mmuPresent = true ∧ n = 10#5 ∧ tlbmiscRd v = true ∧ s.writeCtl n v = (s.storeCtl n v).tlbRead) := by
  unfold State.writeCtl
  split
  · next h => simp only [Bool.and_eq_true, beq_iff_eq] at h; exact .inr (.inl ⟨h.1, h.2, rfl⟩)
  · split
    · next h => simp only [Bool.and_eq_true, beq_iff_eq] at h; exact .inr (.inr ⟨h.1.1, h.1.2, h.2, rfl⟩)
    · exact .inl rfl

/-- What a step can do, by the outcome of 48_engine_step.md R290 it takes. -/
theorem cycle_next {s t : State} (h : cycle s = .next t) :
    s.refusal = none ∧
      ((s.stopFlag = true ∧ s.isBlockBoundary = true ∧ t = s.returnToHost .haltedByRequest) ∨
       (s.takesInterrupt = true ∧ t = s.endStep (dispatch .interrupt s.pc s.beginStep)) ∨
       (s.breakpoints.contains s.pc = true ∧ t = s.endStep (debugEvent s.beginStep)) ∨
       (ReadyToExecute s ∧ ∃ u, fetchDecodeExecute s.beginStep = .next u ∧ t = s.endStep u)) := by
  unfold cycle at h
  split at h
  · cases h
  · next hr =>
    refine ⟨hr, ?_⟩
    split at h
    · next h1 =>
      simp only [Bool.and_eq_true] at h1
      cases h
      exact .inl ⟨h1.2, h1.1, rfl⟩
    · next h1 =>
      split at h
      · next h2 => cases h; exact .inr (.inl ⟨h2, rfl⟩)
      · next h2 =>
        split at h
        · next h3 => cases h; exact .inr (.inr (.inl ⟨h3, rfl⟩))
        · next h3 =>
          refine .inr (.inr (.inr ⟨⟨hr, by simpa using h1, by simpa using h2, by simpa using h3⟩, ?_⟩))
          unfold mapNext at h
          split at h
          · next u hu => cases h; exact ⟨u, hu, rfl⟩
          · cases h
          · cases h

end Sys2Proof.Machine
end

