-- ==== Sys2Proof/Laws/Frames.lean ====
section
/-! SUPPORT. The frame of each shared operation: what a next state differs in, for the terms of Safety.lean. -/

namespace Sys2Proof.Machine

/-! ### Results, transfers, no-ops -/

theorem keepsInputs_of {s t : State} (h1 : t.cfg = s.cfg) (h2 : t.lines = s.lines) (h3 : t.breakpoints = s.breakpoints)
    (h4 : t.stopFlag = s.stopFlag) (h5 : t.blockCount = s.blockCount) (h6 : t.draws = s.draws) : KeepsInputs s t :=
  ⟨h1, h2, h3, h4, h5, h6⟩

theorem computes_of_writeResult {i : Instr} {r : RegNum} {v : Word} {s : State} (h : exec i s = writeResult r v s) :
    Computes s i r v :=
  ⟨(s.writeReg r v).advance, h, fun q => by rw [advance_readReg, readReg_writeReg], by simp [State.pcNext], by simp,
    ⟨fun n => by simp, by simp, fun a => by simp, ⟨by simp, by simp, by simp, by simp, by simp, by simp⟩, by simp⟩⟩

theorem transfers_of_jumpTo {i : Instr} {u : Word} {s : State} (h : exec i s = .next (s.jumpTo u)) : Transfers s i u :=
  ⟨s.jumpTo u, h, fun q => by simp, by simp, by simp,
    ⟨fun n => by simp, by simp, fun a => by simp, ⟨by simp, by simp, by simp, by simp, by simp, by simp⟩, by simp⟩⟩

theorem transfersAndLinks_of_jumpTo {i : Instr} {u : Word} {s : State}
    (h : exec i s = .next ((s.writeReg regRa s.pcNext).jumpTo u)) : TransfersAndLinks s i u :=
  ⟨_, h, fun q => by rw [jumpTo_readReg, readReg_writeReg]; rfl, by simp, by simp,
    ⟨fun n => by simp, by simp, fun a => by simp, ⟨by simp, by simp, by simp, by simp, by simp, by simp⟩, by simp⟩⟩

theorem onlyAdvances_of_advance {i : Instr} {s : State} (h : exec i s = .next s.advance) : OnlyAdvances s i :=
  ⟨s.advance, h, fun q => by simp, by simp [State.pcNext], by simp,
    ⟨fun n => by simp, by simp, fun a => by simp, ⟨by simp, by simp, by simp, by simp, by simp, by simp⟩, by simp⟩⟩

/-! ### Dispatch -/

theorem dispatch_enters (c : Cause) (pc : Word) (s : State) : EntersHandler s (dispatch c pc s) c where
  pie := by rw [State.pie, dispatch_status, handlerStatus_bit]; rfl
  user := by rw [State.user, dispatch_status, handlerStatus_bit]; rfl
  eh := by rw [State.eh, dispatch_status, handlerStatus_bit]; rfl
  statusRest := fun k hk => by rw [dispatch_status, handlerStatus_bit, if_neg (by omega)]
  cause := by rw [dispatch_exception, setExceptionCause_field]
  exceptionRest := fun k hk => by rw [dispatch_exception, setExceptionCause_bit _ _ _ hk]
  vector := by rw [dispatch_pc]; rfl
  blockEnds := by simp
  tlb := by simp
  memory := fun a => by simp
  inputs := ⟨by simp, by simp, by simp, by simp, by simp, by simp⟩
  run := by simp

theorem dispatch_estatus (c : Cause) (pc : Word) (s : State) :
    (dispatch c pc s).estatus = (saveContext c pc s).estatus := by simp [dispatch]

theorem dispatch_bstatus (c : Cause) (pc : Word) (s : State) :
    (dispatch c pc s).bstatus = (saveContext c pc s).bstatus := by simp [dispatch]

theorem dispatch_readReg (c : Cause) (pc : Word) (s : State) (q : RegNum) :
    (dispatch c pc s).readReg q = (saveContext c pc s).readReg q := by simp [dispatch]

theorem dispatch_tlbmisc (c : Cause) (pc : Word) (s : State) :
    (dispatch c pc s).tlbmisc = (markTlbmisc c (saveContext c pc s)).tlbmisc := by simp [dispatch]

theorem dispatch_saves {c : Cause} (hc : c ≠ .debugBreak) (pc : Word) (s : State) :
    SavesContext s (dispatch c pc s) (pc + 4#32) where
  firstStatus := fun h => by simp [dispatch_estatus, saveContext, h, hc]
  firstLink := fun h q => by
    rw [dispatch_readReg]
    simp only [saveContext, h, hc, if_false, Bool.false_eq_true]
    rw [← readReg_writeReg]
    exact readReg_congr rfl rfl q
  nestedStatus := fun h => by simp [dispatch_estatus, saveContext, h]
  nestedLink := fun h q => by simp [dispatch_readReg, saveContext, h]
  breakStatus := by
    rw [dispatch_bstatus]
    simp only [saveContext, hc, if_false]
    split <;> simp

theorem dispatch_savesBreak (pc : Word) (s : State) : SavesBreakContext s (dispatch .debugBreak pc s) (pc + 4#32) where
  firstStatus := fun h => by simp [dispatch_bstatus, saveContext, h]
  firstLink := fun h q => by
    rw [dispatch_readReg]
    simp only [saveContext, h, if_true, if_false, Bool.false_eq_true]
    rw [← readReg_writeReg]
    exact readReg_congr rfl rfl q
  nestedStatus := fun h => by simp [dispatch_bstatus, saveContext, h]
  nestedLink := fun h q => by simp [dispatch_readReg, saveContext, h]
  estatus := by
    rw [dispatch_estatus]
    simp only [saveContext, if_true]
    split <;> simp

/-- What `rdctl` sees of a register other than the five that a dispatch can write. -/
theorem readCtl_of_others {s t : State} {n : RegNum} (h3 : t.ienable = s.ienable) (h4 : t.lines = s.lines)
    (h5 : t.cpuid = s.cpuid) (h6 : t.ctl6 = s.ctl6) (h8 : n = 8#5 → t.pteaddr = s.pteaddr) (h9 : t.tlbacc = s.tlbacc)
    (h10 : n = 10#5 → t.tlbmisc = s.tlbmisc) (h11 : t.ctl11 = s.ctl11) (h12 : n = 12#5 → t.badaddr = s.badaddr)
    (h13 : t.configReg = s.configReg) (h14 : t.ctlHigh = s.ctlHigh) (n0 : n ≠ 0#5) (n1 : n ≠ 1#5) (n2 : n ≠ 2#5)
    (n7 : n ≠ 7#5) : t.readCtl n = s.readCtl n := by
  have e (k : Nat) (hk : k < 32) : n.toNat = k → n = BitVec.ofNat 5 k := by
    intro h
    apply BitVec.eq_of_toNat_eq
    simp only [h, BitVec.toNat_ofNat]
    omega
  unfold State.readCtl
  split <;> rename_i hn <;> try simp only [State.pending, *]
  · exact absurd (e 0 (by omega) hn) n0
  · exact absurd (e 1 (by omega) hn) n1
  · exact absurd (e 2 (by omega) hn) n2
  · exact absurd (e 7 (by omega) hn) n7
  · exact h8 (e 8 (by omega) hn)
  · exact h10 (e 10 (by omega) hn)
  · exact h12 (e 12 (by omega) hn)

theorem dispatch_readCtl_of_others (c : Cause) (pc : Word) (s : State) (n : RegNum) (n0 : n ≠ 0#5) (n1 : n ≠ 1#5)
    (n2 : n ≠ 2#5) (n7 : n ≠ 7#5) (n10 : n = 10#5 → (dispatch c pc s).tlbmisc = s.tlbmisc) :
    (dispatch c pc s).readCtl n = s.readCtl n :=
  readCtl_of_others (by simp) (by simp) (by simp) (by simp) (by simp) (by simp) n10 (by simp) (by simp) (by simp)
    (by simp) n0 n1 n2 n7

theorem dispatch_tlbmisc_of_none {c : Cause} (h : c.tlbRow = .none) (pc : Word) (s : State) :
    (dispatch c pc s).tlbmisc = s.tlbmisc := by
  rw [dispatch_tlbmisc]
  simp [markTlbmisc, h]

theorem dispatch_keepsOtherCtl {c : Cause} (h : c.tlbRow = .none) (pc : Word) (s : State) :
    KeepsOtherCtl s (dispatch c pc s) := fun n n0 n1 n2 n7 =>
  dispatch_readCtl_of_others c pc s n n0 n1 n2 n7 (fun _ => dispatch_tlbmisc_of_none h pc s)

theorem raises_of_raise {i : Instr} {c : Cause} {s : State} (h : exec i s = raise c s) (hc : c ≠ .debugBreak)
    (hr : c.tlbRow = .none) : Raises s i c :=
  ⟨_, h, dispatch_enters c s.pc s, dispatch_saves hc s.pc s, dispatch_keepsOtherCtl hr s.pc s⟩

/-! ### `tlbmisc` of a dispatch -/

theorem tlbmiscWe_set (v : Word) (b : BitVec 1) : tlbmiscWe (setTlbmiscWe v b) = b.getLsbD 0 := by
  unfold tlbmiscWe setTlbmiscWe
  rw [getLsbD_insertField _ _ _ _ _ (by omega)]
  simp

theorem tlbmiscDbl_set (v : Word) (b : BitVec 1) : tlbmiscDbl (setTlbmiscDbl v b) = b.getLsbD 0 := by
  unfold tlbmiscDbl setTlbmiscDbl
  rw [getLsbD_insertField _ _ _ _ _ (by omega)]
  simp

theorem setTlbmiscWe_bit (v : Word) (b : BitVec 1) (i : Nat) (h : i ≠ 18) :
    (setTlbmiscWe v b).getLsbD i = v.getLsbD i := by
  unfold setTlbmiscWe
  rw [getLsbD_insertField _ _ _ _ _ (by omega), if_neg (by omega)]

theorem setTlbmiscDbl_bit (v : Word) (b : BitVec 1) (i : Nat) (h : i ≠ 3) :
    (setTlbmiscDbl v b).getLsbD i = v.getLsbD i := by
  unfold setTlbmiscDbl
  rw [getLsbD_insertField _ _ _ _ _ (by omega), if_neg (by omega)]

theorem setTlbmiscD_bit (v : Word) (b : BitVec 1) (i : Nat) (h : i ≠ 0) :
    (setTlbmiscD v b).getLsbD i = v.getLsbD i := by
  unfold setTlbmiscD
  rw [getLsbD_insertField _ _ _ _ _ (by omega), if_neg (by omega)]

theorem setTlbmiscD_zero (v : Word) (b : BitVec 1) : (setTlbmiscD v b).getLsbD 0 = b.getLsbD 0 := by
  unfold setTlbmiscD
  rw [getLsbD_insertField _ _ _ _ _ (by omega)]
  simp

theorem dispatch_tlbmisc_miss_first {s : State} (h : s.eh = false) (pc : Word) :
    (dispatch .tlbMiss pc s).tlbmisc = setTlbmiscDbl (setTlbmiscWe s.tlbmisc 1#1) 0#1 := by
  have he : (saveContext .tlbMiss pc s).eh = false := by rw [← h]; exact eh_congr (by simp)
  rw [dispatch_tlbmisc]
  simp [markTlbmisc, Cause.tlbRow, he]

theorem dispatch_tlbmisc_miss_nested {s : State} (h : s.eh = true) (pc : Word) :
    (dispatch .tlbMiss pc s).tlbmisc = setTlbmiscDbl s.tlbmisc 1#1 := by
  have he : (saveContext .tlbMiss pc s).eh = true := by rw [← h]; exact eh_congr (by simp)
  rw [dispatch_tlbmisc]
  simp [markTlbmisc, Cause.tlbRow, he]

theorem dispatch_tlbmisc_permission_first {c : Cause} (hc : c.tlbRow = .permission) {s : State} (h : s.eh = false)
    (pc : Word) : (dispatch c pc s).tlbmisc = setTlbmiscWe (setTlbmiscDbl s.tlbmisc 0#1) 1#1 := by
  have he : (saveContext c pc s).eh = false := by rw [← h]; exact eh_congr (by simp)
  rw [dispatch_tlbmisc]
  simp [markTlbmisc, hc, he]

theorem dispatch_tlbmisc_permission_nested {c : Cause} (hc : c.tlbRow = .permission) {s : State} (h : s.eh = true)
    (pc : Word) : (dispatch c pc s).tlbmisc = s.tlbmisc := by
  have he : (saveContext c pc s).eh = true := by rw [← h]; exact eh_congr (by simp)
  rw [dispatch_tlbmisc]
  simp [markTlbmisc, hc, he]

/-- A dispatch writes no bit of `tlbmisc` but DBL and WE. -/
theorem dispatch_tlbmisc_bit (c : Cause) (pc : Word) (s : State) (b : Nat) (h3 : b ≠ 3) (h18 : b ≠ 18) :
    (dispatch c pc s).tlbmisc.getLsbD b = s.tlbmisc.getLsbD b := by
  cases he : s.eh <;> cases hr : c.tlbRow
  · rw [dispatch_tlbmisc_of_none hr]
  · have : c = .tlbMiss := by cases c <;> simp [Cause.tlbRow] at hr; rfl
    subst this
    rw [dispatch_tlbmisc_miss_first he, setTlbmiscDbl_bit _ _ _ h3, setTlbmiscWe_bit _ _ _ h18]
  · rw [dispatch_tlbmisc_permission_first hr he, setTlbmiscWe_bit _ _ _ h18, setTlbmiscDbl_bit _ _ _ h3]
  · rw [dispatch_tlbmisc_of_none hr]
  · have : c = .tlbMiss := by cases c <;> simp [Cause.tlbRow] at hr; rfl
    subst this
    rw [dispatch_tlbmisc_miss_nested he, setTlbmiscDbl_bit _ _ _ h3]
  · rw [dispatch_tlbmisc_permission_nested hr he]

/-! ### Rejected accesses -/

theorem cause_ne_debugBreak (f : MemFault) (k : AccessKind) : f.cause k ≠ .debugBreak := by
  cases f <;> cases k <;> simp [MemFault.cause]

theorem cause_eq_tlbMiss (f : MemFault) (k : AccessKind) : f.cause k = .tlbMiss ↔ f = .tlbMiss := by
  cases f <;> cases k <;> simp [MemFault.cause]

theorem cause_tlbRow_none {f : MemFault} (k : AccessKind) (h : f = .supervisor ∨ f = .misaligned) :
    (f.cause k).tlbRow = .none := by
  rcases h with rfl | rfl <;> cases k <;> rfl

theorem cause_tlbRow_permission (k : AccessKind) : (MemFault.tlbPermission.cause k).tlbRow = .permission := by
  cases k <;> rfl

theorem setPteaddrVpn_bit (v : Word) (vpn : BitVec 20) (b : Nat) (h : b < 2 ∨ 22 ≤ b) :
    (setPteaddrVpn v vpn).getLsbD b = v.getLsbD b := by
  unfold setPteaddrVpn
  rw [getLsbD_insertField _ _ _ _ _ (by omega), if_neg (by omega)]

theorem pteaddrVpn_set (v : Word) (vpn : BitVec 20) : pteaddrVpn (setPteaddrVpn v vpn) = vpn :=
  extract_insertField v 2 20 vpn (by omega)

theorem recordFault_eh (f : MemFault) (k : AccessKind) (va : Word) (s : State) : (recordFault f k va s).eh = s.eh :=
  eh_congr (by simp)

theorem faultDataBit_getLsbD (k : AccessKind) : (faultDataBit k).getLsbD 0 = (k != .fetch) := by cases k <;> rfl

/-- A rejected access is an exception at the instruction with the fault recorded. -/
theorem accessRejected_raiseMemFault (f : MemFault) (k : AccessKind) (va : Word) (s : State) :
    AccessRejected s (raiseMemFault f k va s) f k va := by
  have hd := cause_ne_debugBreak f k
  refine ⟨?_, ?_, ?_⟩
  · have h := dispatch_enters (f.cause k) s.pc (recordFault f k va s)
    have hv := h.vector
    rw [recordFault_eh, recordFault_cfg] at hv
    cases f <;> exact ⟨h.pie, h.user, h.eh, h.statusRest, h.cause, h.exceptionRest, hv, h.blockEnds, h.tlb, h.memory,
      ⟨h.inputs.cfg, h.inputs.lines, h.inputs.breakpoints, h.inputs.stopFlag, h.inputs.blockCount, h.inputs.draws⟩,
      h.run⟩
  · have h := dispatch_saves hd s.pc (recordFault f k va s)
    cases f <;> exact ⟨h.firstStatus, h.firstLink, h.nestedStatus, h.nestedLink, h.breakStatus⟩
  · have hpt : (raiseMemFault f k va s).pteaddr = (recordFault f k va s).pteaddr := by simp [raiseMemFault]
    have hmiss (he : s.eh = false) : f = .tlbMiss → (raiseMemFault f k va s).tlbmisc =
        setTlbmiscDbl (setTlbmiscWe (setTlbmiscD s.tlbmisc (faultDataBit k)) 1#1) 0#1 := by
      rintro rfl
      exact dispatch_tlbmisc_miss_first (by rw [recordFault_eh, he]) s.pc
    have hmissN (he : s.eh = true) : f = .tlbMiss → (raiseMemFault f k va s).tlbmisc =
        setTlbmiscDbl (setTlbmiscD s.tlbmisc (faultDataBit k)) 1#1 := by
      rintro rfl
      exact dispatch_tlbmisc_miss_nested (by rw [recordFault_eh, he]) s.pc
    have hperm (he : s.eh = false) : f = .tlbPermission → (raiseMemFault f k va s).tlbmisc =
        setTlbmiscWe (setTlbmiscDbl (setTlbmiscD s.tlbmisc (faultDataBit k)) 0#1) 1#1 := by
      rintro rfl
      exact dispatch_tlbmisc_permission_first (cause_tlbRow_permission k) (by rw [recordFault_eh, he]) s.pc
    have hpermN (he : s.eh = true) : f = .tlbPermission → (raiseMemFault f k va s).tlbmisc =
        setTlbmiscD s.tlbmisc (faultDataBit k) := by
      rintro rfl
      exact dispatch_tlbmisc_permission_nested (cause_tlbRow_permission k) (by rw [recordFault_eh, he]) s.pc
    have hkeep : f = .supervisor ∨ f = .misaligned → (raiseMemFault f k va s).tlbmisc = s.tlbmisc := by
      intro h
      have := dispatch_tlbmisc_of_none (cause_tlbRow_none k h) s.pc (recordFault f k va s)
      rcases h with rfl | rfl <;> exact this
    refine ⟨by simp [raiseMemFault], ?_, ?_, ?_, hkeep, ?_, ?_, ?_, ?_, ?_, ?_⟩
    · rintro rfl
      rw [hpt]
      exact pteaddrVpn_set _ _
    · intro b hb
      rw [hpt]
      cases f <;> first | rfl | exact setPteaddrVpn_bit _ _ b hb
    · intro hf
      rw [hpt]
      cases f <;> first | rfl | exact absurd rfl hf
    · rintro (hf | hf) <;> cases he : s.eh
      · rw [hmiss he hf, setTlbmiscDbl_bit _ _ _ (by omega), setTlbmiscWe_bit _ _ _ (by omega), setTlbmiscD_zero,
          faultDataBit_getLsbD]
      · rw [hmissN he hf, setTlbmiscDbl_bit _ _ _ (by omega), setTlbmiscD_zero, faultDataBit_getLsbD]
      · rw [hperm he hf, setTlbmiscWe_bit _ _ _ (by omega), setTlbmiscDbl_bit _ _ _ (by omega), setTlbmiscD_zero,
          faultDataBit_getLsbD]
      · rw [hpermN he hf, setTlbmiscD_zero, faultDataBit_getLsbD]
    · rintro (hf | hf) he
      · rw [hmiss he hf]
        refine ⟨?_, tlbmiscDbl_set _ _⟩
        unfold tlbmiscWe
        rw [setTlbmiscDbl_bit _ _ _ (by omega)]
        exact tlbmiscWe_set _ _
      · rw [hperm he hf]
        refine ⟨tlbmiscWe_set _ _, ?_⟩
        unfold tlbmiscDbl
        rw [setTlbmiscWe_bit _ _ _ (by omega)]
        exact tlbmiscDbl_set _ _
    · intro hf he
      rw [hmissN he hf]
      refine ⟨?_, tlbmiscDbl_set _ _⟩
      unfold tlbmiscWe
      rw [setTlbmiscDbl_bit _ _ _ (by omega), setTlbmiscD_bit _ _ _ (by omega)]
    · intro hf he
      rw [hpermN he hf]
      unfold tlbmiscWe tlbmiscDbl
      exact ⟨setTlbmiscD_bit _ _ _ (by omega), setTlbmiscD_bit _ _ _ (by omega)⟩
    · intro b h0 h3 h18
      have h := dispatch_tlbmisc_bit (f.cause k) s.pc (recordFault f k va s) b h3 h18
      refine h.trans ?_
      cases f <;> first | rfl | exact setTlbmiscD_bit _ _ _ h0
    · intro n n0 n1 n2 n7 n8 n10 n12
      exact readCtl_of_others (by simp [raiseMemFault]) (by simp [raiseMemFault]) (by simp [raiseMemFault])
        (by simp [raiseMemFault]) (fun h => absurd h n8) (by simp [raiseMemFault]) (fun h => absurd h n10)
        (by simp [raiseMemFault]) (fun h => absurd h n12) (by simp [raiseMemFault]) (by simp [raiseMemFault]) n0 n1 n2 n7

/-- The dispatch of cause 7 that follows the record of its target: only `badaddr` differs beside what `Dispatch` writes. -/
theorem dispatch_badTarget_frame (s : State) (u : Word) :
    EntersHandler s (dispatch .misalignedDestinationAddress s.pc { s with badaddr := u }) .misalignedDestinationAddress ∧
    SavesContext s (dispatch .misalignedDestinationAddress s.pc { s with badaddr := u }) (s.pc + 4#32) ∧
    ∀ n, n ≠ 0#5 → n ≠ 1#5 → n ≠ 2#5 → n ≠ 7#5 → n ≠ 12#5 →
      (dispatch .misalignedDestinationAddress s.pc { s with badaddr := u }).readCtl n = s.readCtl n := by
  have e := dispatch_enters .misalignedDestinationAddress s.pc { s with badaddr := u }
  have c := dispatch_saves (c := .misalignedDestinationAddress) (by simp) s.pc { s with badaddr := u }
  refine ⟨⟨e.pie, e.user, e.eh, e.statusRest, e.cause, e.exceptionRest, e.vector, e.blockEnds, e.tlb, e.memory,
    ⟨e.inputs.cfg, e.inputs.lines, e.inputs.breakpoints, e.inputs.stopFlag, e.inputs.blockCount, e.inputs.draws⟩,
    e.run⟩, ⟨c.firstStatus, c.firstLink, c.nestedStatus, c.nestedLink, c.breakStatus⟩, ?_⟩
  intro n n0 n1 n2 n7 n12
  exact readCtl_of_others (by simp) (by simp) (by simp) (by simp) (by simp) (by simp)
    (fun _ => dispatch_tlbmisc_of_none rfl s.pc { s with badaddr := u }) (by simp) (fun h => absurd h n12) (by simp)
    (by simp) n0 n1 n2 n7

theorem raisesMisalignedDestination_of {i : Instr} {s : State} {u : Word}
    (h : exec i s = raiseMisalignedDestination u s) : RaisesMisalignedDestination s i u :=
  have f := dispatch_badTarget_frame s u
  ⟨_, h, f.1, f.2.1, by simp, f.2.2⟩

/-! ### Loads and stores -/

theorem load_computes {n : Width} {e : Word → Word} {rb ra : RegNum} {imm16 : BitVec 16} {s : State} {pa : Word}
    {i : Instr} (hx : exec i s = load n e rb ra imm16 s)
    (h : s.dataAddress (s.effectiveAddress ra imm16) n .read = .ok pa) (hb : s.backsAccess pa n = true) :
    Computes s i rb (e (s.mem.value pa n)) :=
  computes_of_writeResult (by rw [hx]; simp [load, memRead, h, hb, writeResult])

theorem load_rejected {n : Width} {e : Word → Word} {rb ra : RegNum} {imm16 : BitVec 16} {s : State} {f : MemFault}
    {i : Instr} (hx : exec i s = load n e rb ra imm16 s)
    (h : s.dataAddress (s.effectiveAddress ra imm16) n .read = .error f) :
    ∃ t, exec i s = .next t ∧ AccessRejected s t f .read (s.effectiveAddress ra imm16) :=
  ⟨_, by rw [hx]; simp [load, memRead, h], accessRejected_raiseMemFault f .read _ s⟩

theorem load_unbacked {n : Width} {e : Word → Word} {rb ra : RegNum} {imm16 : BitVec 16} {s : State} {pa : Word}
    {i : Instr} (hx : exec i s = load n e rb ra imm16 s)
    (h : s.dataAddress (s.effectiveAddress ra imm16) n .read = .ok pa) (hb : s.backsAccess pa n = false) :
    exec i s = .fault (.unbackedAddress pa) := by rw [hx]; simp [load, memRead, h, hb]

theorem store_stored {n : Width} {rb ra : RegNum} {imm16 : BitVec 16} {s : State} {pa : Word} {i : Instr}
    (hx : exec i s = store n rb ra imm16 s) (hw : s.mem.wf = true)
    (h : s.dataAddress (s.effectiveAddress ra imm16) n .write = .ok pa) (hb : s.backsAccess pa n = true) :
    ∃ t, exec i s = .next t ∧ Stored s t pa n (s.readReg rb) := by
  refine ⟨State.advance { s with mem := s.mem.store pa n (s.readReg rb) },
    by rw [hx]; simp [store, memWrite, h, hb], ?_⟩
  exact ⟨fun k hk => by simpa using Memory.read_store_inside hw pa n _ k hk,
    fun a ha => by simpa using Memory.read_store_outside hw pa n _ a ha, by simpa using Memory.wf_store hw pa n _,
    fun q => by rw [advance_readReg]; rfl, by simp [State.pcNext], by simp, fun m => by rw [advance_readCtl]; rfl,
    by simp, ⟨by simp, by simp, by simp, by simp, by simp, by simp⟩, by simp⟩

theorem store_rejected {n : Width} {rb ra : RegNum} {imm16 : BitVec 16} {s : State} {f : MemFault}
    {i : Instr} (hx : exec i s = store n rb ra imm16 s)
    (h : s.dataAddress (s.effectiveAddress ra imm16) n .write = .error f) :
    ∃ t, exec i s = .next t ∧ AccessRejected s t f .write (s.effectiveAddress ra imm16) :=
  ⟨_, by rw [hx]; simp [store, memWrite, h], accessRejected_raiseMemFault f .write _ s⟩

theorem store_unbacked {n : Width} {rb ra : RegNum} {imm16 : BitVec 16} {s : State} {pa : Word}
    {i : Instr} (hx : exec i s = store n rb ra imm16 s)
    (h : s.dataAddress (s.effectiveAddress ra imm16) n .write = .ok pa) (hb : s.backsAccess pa n = false) :
    exec i s = .fault (.unbackedAddress pa) := by rw [hx]; simp [store, memWrite, h, hb]

/-! ### A step that executes -/

theorem step_of_ready {s : State} (h : ReadyToExecute s) : cycle s = mapNext s.endStep (fetchDecodeExecute s.beginStep) := by
  have hb := h.noBreakpoint
  unfold cycle
  rw [h.meaningful]
  simp only [h.notStopped, h.notInterrupted, hb, if_false, Bool.false_eq_true]

theorem fetchDecodeExecute_of_instr {s : State} {pa : Word} {i : Instr} (ht : s.translate s.pc .fetch = .ok pa)
    (hb : s.backsAccess pa .word = true) (hd : (decode (s.mem.value pa .word)).instr? = some i) :
    fetchDecodeExecute s = exec i s := by
  unfold fetchDecodeExecute State.fetchWord
  simp only [ht, hb, if_true]
  revert hd
  cases decode (s.mem.value pa .word) <;> simp only [Decoded.instr?] <;> intro hd <;> cases hd <;> rfl

theorem beginStep_translate (s : State) (va : Word) (k : AccessKind) : s.beginStep.translate va k = s.translate va k := rfl

theorem beginStep_backsAccess (s : State) (pa : Word) (n : Width) : s.beginStep.backsAccess pa n = s.backsAccess pa n := rfl

end Sys2Proof.Machine
end

