-- ==== Sys2Proof/Laws/Control.lean ====
section
/-! SUPPORT. Control registers and the TLB: what a read gives after a write. -/

namespace Sys2Proof.Machine

/-! ### Control registers -/

theorem clearTlbmiscRd_eq (v : Word) : clearTlbmiscRd v = v &&& 0xFFF7FFFF#32 := by
  apply BitVec.eq_of_getLsbD_eq
  intro k hk
  unfold clearTlbmiscRd
  rw [getLsbD_insertField _ _ _ _ _ (by omega), BitVec.getLsbD_and]
  have : ∀ k < 32, (0xFFF7FFFF#32).getLsbD k = !(decide (19 ≤ k ∧ k < 20)) := by decide
  rw [this k hk]
  by_cases h : 19 ≤ k ∧ k < 20 <;> simp [h]

theorem regNum_eq_of_toNat {m n : RegNum} {k : Nat} (hm : m.toNat = k) (hn : n.toNat = k) : m = n :=
  BitVec.eq_of_toNat_eq (by rw [hm, hn])

theorem vector_getD_eq {k : Nat} (xs : Vector Word k) (i : Nat) (d : Word) : xs.getD i d = xs[i]?.getD d := by
  simp [Vector.getD]

theorem vector_getD_setIfInBounds_ne {k : Nat} (xs : Vector Word k) {i j : Nat} (h : i ≠ j) (v d : Word) :
    (xs.setIfInBounds i v).getD j d = xs.getD j d := by
  rw [vector_getD_eq, vector_getD_eq, Vector.getElem?_setIfInBounds_ne h]

theorem vector_getD_setIfInBounds_self {k : Nat} (xs : Vector Word k) {i : Nat} (h : i < k) (v d : Word) :
    (xs.setIfInBounds i v).getD i d = v := by
  rw [vector_getD_eq, Vector.getElem?_setIfInBounds_self_of_lt h]; rfl

theorem storeCtl_high {s : State} {n : RegNum} (v : Word) (h : 14 ≤ n.toNat) :
    s.storeCtl n v = { s with ctlHigh := s.ctlHigh.setIfInBounds (n.toNat - 14) v } := by
  unfold State.storeCtl; split <;> first | rfl | (exfalso; omega)

theorem storeCtl_ctlHigh_of_low {s : State} {n : RegNum} (v : Word) (h : n.toNat < 14) :
    (s.storeCtl n v).ctlHigh = s.ctlHigh := by
  unfold State.storeCtl
  split <;> first | rfl | (exfalso; interval_cases n.toNat <;> simp_all)

theorem readCtl_high {s : State} {n : RegNum} (h : 14 ≤ n.toNat) : s.readCtl n = s.ctlHigh.getD (n.toNat - 14) 0#32
    := by
  unfold State.readCtl; split <;> first | rfl | (exfalso; omega)

theorem storeCtl_status_of_ne (s : State) (n : RegNum) (v : Word) (h : n.toNat ≠ 0) : (s.storeCtl n v).status
    = s.status := by
  unfold State.storeCtl; split <;> first | rfl | exact absurd ‹n.toNat = 0› h

theorem storeCtl_estatus_of_ne (s : State) (n : RegNum) (v : Word) (h : n.toNat ≠ 1) : (s.storeCtl n v).estatus
    = s.estatus := by
  unfold State.storeCtl; split <;> first | rfl | exact absurd ‹n.toNat = 1› h

theorem storeCtl_bstatus_of_ne (s : State) (n : RegNum) (v : Word) (h : n.toNat ≠ 2) : (s.storeCtl n v).bstatus
    = s.bstatus := by
  unfold State.storeCtl; split <;> first | rfl | exact absurd ‹n.toNat = 2› h

theorem storeCtl_ienable_of_ne (s : State) (n : RegNum) (v : Word) (h : n.toNat ≠ 3) : (s.storeCtl n v).ienable
    = s.ienable := by
  unfold State.storeCtl; split <;> first | rfl | exact absurd ‹n.toNat = 3› h

theorem storeCtl_cpuid_of_ne (s : State) (n : RegNum) (v : Word) (h : n.toNat ≠ 5) : (s.storeCtl n v).cpuid = s.cpuid
    := by
  unfold State.storeCtl; split <;> first | rfl | exact absurd ‹n.toNat = 5› h

theorem storeCtl_ctl6_of_ne (s : State) (n : RegNum) (v : Word) (h : n.toNat ≠ 6) : (s.storeCtl n v).ctl6 = s.ctl6 := by
  unfold State.storeCtl; split <;> first | rfl | exact absurd ‹n.toNat = 6› h

theorem storeCtl_exception_of_ne (s : State) (n : RegNum) (v : Word) (h : n.toNat ≠ 7) : (s.storeCtl n v).exception
    = s.exception := by
  unfold State.storeCtl; split <;> first | rfl | exact absurd ‹n.toNat = 7› h

theorem storeCtl_pteaddr_of_ne (s : State) (n : RegNum) (v : Word) (h : n.toNat ≠ 8) : (s.storeCtl n v).pteaddr
    = s.pteaddr := by
  unfold State.storeCtl; split <;> first | rfl | exact absurd ‹n.toNat = 8› h

theorem storeCtl_tlbacc_of_ne (s : State) (n : RegNum) (v : Word) (h : n.toNat ≠ 9) : (s.storeCtl n v).tlbacc
    = s.tlbacc := by
  unfold State.storeCtl; split <;> first | rfl | exact absurd ‹n.toNat = 9› h

theorem storeCtl_tlbmisc_of_ne (s : State) (n : RegNum) (v : Word) (h : n.toNat ≠ 10) : (s.storeCtl n v).tlbmisc
    = s.tlbmisc := by
  unfold State.storeCtl; split <;> first | rfl | exact absurd ‹n.toNat = 10› h

theorem storeCtl_ctl11_of_ne (s : State) (n : RegNum) (v : Word) (h : n.toNat ≠ 11) : (s.storeCtl n v).ctl11 = s.ctl11
    := by
  unfold State.storeCtl; split <;> first | rfl | exact absurd ‹n.toNat = 11› h

theorem storeCtl_badaddr_of_ne (s : State) (n : RegNum) (v : Word) (h : n.toNat ≠ 12) : (s.storeCtl n v).badaddr
    = s.badaddr := by
  unfold State.storeCtl; split <;> first | rfl | exact absurd ‹n.toNat = 12› h

theorem storeCtl_configReg_of_ne (s : State) (n : RegNum) (v : Word) (h : n.toNat ≠ 13) : (s.storeCtl n v).configReg
    = s.configReg := by
  unfold State.storeCtl; split <;> first | rfl | exact absurd ‹n.toNat = 13› h

/-- A control-register write leaves every other register as it reads. -/
theorem storeCtl_readCtl_of_ne (s : State) (n m : RegNum) (v : Word) (h : m ≠ n) (h4 : m ≠ 4#5) :
    (s.storeCtl n v).readCtl m = s.readCtl m := by
  have h4' : m.toNat ≠ 4 := fun e => h4 (regNum_eq_of_toNat e rfl)
  have hne : n.toNat ≠ m.toNat := fun e => h (BitVec.eq_of_toNat_eq e.symm)
  by_cases hm : 14 ≤ m.toNat
  · rw [readCtl_high hm, readCtl_high hm]
    by_cases hn : 14 ≤ n.toNat
    · rw [storeCtl_high v hn]
      exact vector_getD_setIfInBounds_ne s.ctlHigh (by omega) v 0#32
    · rw [storeCtl_ctlHigh_of_low v (by omega)]
  unfold State.readCtl
  split <;> rename_i hk
  · exact storeCtl_status_of_ne s n v (fun e => hne (e.trans hk.symm))
  · exact storeCtl_estatus_of_ne s n v (fun e => hne (e.trans hk.symm))
  · exact storeCtl_bstatus_of_ne s n v (fun e => hne (e.trans hk.symm))
  · exact storeCtl_ienable_of_ne s n v (fun e => hne (e.trans hk.symm))
  · exact absurd hk h4'
  · exact storeCtl_cpuid_of_ne s n v (fun e => hne (e.trans hk.symm))
  · exact storeCtl_ctl6_of_ne s n v (fun e => hne (e.trans hk.symm))
  · exact storeCtl_exception_of_ne s n v (fun e => hne (e.trans hk.symm))
  · exact storeCtl_pteaddr_of_ne s n v (fun e => hne (e.trans hk.symm))
  · exact storeCtl_tlbacc_of_ne s n v (fun e => hne (e.trans hk.symm))
  · exact storeCtl_tlbmisc_of_ne s n v (fun e => hne (e.trans hk.symm))
  · exact storeCtl_ctl11_of_ne s n v (fun e => hne (e.trans hk.symm))
  · exact storeCtl_badaddr_of_ne s n v (fun e => hne (e.trans hk.symm))
  · exact storeCtl_configReg_of_ne s n v (fun e => hne (e.trans hk.symm))
  · exfalso
    have : m.toNat < 14 := by omega
    interval_cases m.toNat <;> simp_all

/-- What the written register reads as: slot 4, `pteaddr[1:0]` and `tlbmisc.RD` do not take the value. -/
theorem storeCtl_readCtl_self (s : State) (n : RegNum) (v : Word) :
    (s.storeCtl n v).readCtl n = if n = 4#5 then s.readCtl 4#5 else if n = 8#5 then v &&& 0xFFFFFFFC#32
      else if n = 10#5 then v &&& 0xFFF7FFFF#32 else v := by
  have e : ∀ k (r : RegNum), r.toNat = k → n.toNat ≠ k → n ≠ r := fun k r h1 h2 h3 => h2 (h3 ▸ h1)
  have hn := n.isLt
  by_cases h4 : n = 4#5
  · subst h4; rfl
  by_cases h8 : n = 8#5
  · subst h8; rfl
  by_cases h10 : n = 10#5
  · subst h10; simp only [h4, h8, if_false, if_true]
    show clearTlbmiscRd v = _
    exact clearTlbmiscRd_eq v
  simp only [h4, h8, h10, if_false]
  by_cases h14 : 14 ≤ n.toNat
  · rw [storeCtl_high v h14, readCtl_high h14]
    exact vector_getD_setIfInBounds_self s.ctlHigh (by omega) _ _
  · have hv : n = BitVec.ofNat 5 n.toNat := by simp
    generalize n.toNat = k at *
    subst hv
    interval_cases k <;> first | rfl | (exfalso; simp at *)

theorem writeCtl_plain {s : State} {n : RegNum} (v : Word) (h : s.cfg.mmuPresent = true → n ≠ 9#5 ∧ n ≠ 10#5) :
    s.writeCtl n v = s.storeCtl n v := by
  unfold State.writeCtl
  cases hm : s.cfg.mmuPresent
  · simp
  · simp [h hm]

theorem writeCtl_status_of_ne (s : State) (n v) (h : n ≠ 0#5) : (s.writeCtl n v).status = s.status := by
  have := storeCtl_status_of_ne s n v (fun e => h (regNum_eq_of_toNat e rfl))
  rcases writeCtl_cases s n v with e | ⟨-, -, e⟩ | ⟨-, -, -, e⟩ <;> simp [e, this]

theorem exec_wrctl_supervisor {s : State} {n ra : RegNum} (h : s.user = false) :
    exec (.wrctl n ra) s = .next (s.writeCtl n (s.readReg ra)).advance.endBlock := by
  simp [exec, execWrctl, h]

theorem storeCtl_tlbacc_self (s : State) (v : Word) : s.storeCtl 9#5 v = { s with tlbacc := v } := rfl

theorem storeCtl_tlbmisc_self (s : State) (v : Word) : s.storeCtl 10#5 v = { s with tlbmisc := clearTlbmiscRd v } := rfl

/-! ### The TLB -/

theorem permits_ite {e : TlbEntry} {k : AccessKind} {α : Type} (x y : α) :
   (if e.permits k = true then x else y) = if (k = .read ∧ e.r = false) ∨ (k = .write ∧ e.w = false) ∨ (k = .fetch
       ∧ e.x = false) then y else x := by
  have hp : e.permits k = true ↔ ¬ ((k = .read ∧ e.r = false) ∨ (k = .write ∧ e.w = false) ∨ (k = .fetch ∧ e.x
      = false)) := by
    cases k
    · show e.r = true ↔ _
      simp
    · show e.w = true ↔ _
      simp
    · show e.x = true ↔ _
      simp
  by_cases h : e.permits k = true
  · rw [if_pos h, if_neg (hp.1 h)]
  · rw [if_neg h, if_pos (not_not.1 (fun g => h (hp.2 g)))]

theorem tlbEntry_matches_iff (e : TlbEntry) (vpn pid) : e.matches vpn pid = true ↔ e.vpn = vpn ∧ (e.g = true ∨ e.pid
    = pid) := by
  simp [TlbEntry.matches]

/-- The matching ways of a page. -/
theorem mem_matchingWays (s : State) (vpn way) : way ∈ s.matchingWays vpn ↔ way < s.cfg.tlbWays ∧ (s.tlbEntry way
    (s.setOf vpn)).vpn = vpn ∧ ((s.tlbEntry way (s.setOf vpn)).g = true ∨ (s.tlbEntry way (s.setOf vpn)).pid
        = tlbmiscPid s.tlbmisc) := by
  simp [State.matchingWays, tlbEntry_matches_iff]

theorem chosenWay_none (s : State) (vpn k) : s.chosenWay vpn k = none ↔ s.matchingWays vpn = [] := by
  unfold State.chosenWay; split <;> simp_all

theorem chosenWay_mem (s : State) (vpn k w) (h : s.chosenWay vpn k = some w) : w ∈ s.matchingWays vpn := by
  unfold State.chosenWay at h
  split at h
  · cases h
  · rename_i h1; cases h; simp [h1]
  · rename_i way more h1 h2
    simp only [Option.some.injEq] at h
    rw [h2, ← h]
    rw [List.getD_eq_getElem _ _ (Nat.mod_lt _ (by simp))]
    exact List.getElem_mem _

theorem setOf_vpnOf (s : State) (va : Word) : s.setOf (vpnOf va) = va.toNat / 2 ^ 12 % s.cfg.tlbSets := by
  have : (vpnOf va).toNat = va.toNat / 2^12 := by
    have := va.isLt
    simp only [vpnOf, BitVec.extractLsb'_toNat, Nat.shiftRight_eq_div_pow]; omega
  rw [State.setOf, this]

theorem tlbIndex_inj {s : Nat} {w1 s1 w2 s2} (h1 : s1 < s) (h2 : s2 < s) (h : w1 * s + s1 = w2 * s + s2) : w1 = w2
    ∧ s1 = s2 := by
  have hs : 0 < s := by omega
  have a := congrArg (· / s) h
  have b := congrArg (· % s) h
  simp only [Nat.mul_comm _ s, Nat.mul_add_div hs, Nat.mul_add_mod, Nat.div_eq_of_lt h1, Nat.div_eq_of_lt h2,
      Nat.mod_eq_of_lt h1, Nat.mod_eq_of_lt h2] at a b
  omega

theorem tlbIndex_lt {w s way set : Nat} (h1 : way < w) (h2 : set < s) : way * s + set < w * s := by
  calc way * s + set < way * s + s := by omega
    _ = (way+1) * s := by ring
    _ ≤ w * s := Nat.mul_le_mul_right _ h1

theorem setTlbmiscWay_bit (v : Word) (b : BitVec 4) (i : Nat) (h : i < 20 ∨ 24 ≤ i) : (setTlbmiscWay v b).getLsbD i
    = v.getLsbD i := by
  unfold setTlbmiscWay
  rw [getLsbD_insertField _ _ _ _ _ (by omega), if_neg (by omega)]

theorem tlbWrite_of_we (s : State) (h : tlbmiscWe s.tlbmisc = true) : s.tlbWrite = { s with
      tlb := s.tlb.set (s.selectedWay * s.cfg.tlbSets + s.selectedSet)
        (entryOf s.tlbacc (pteaddrVpn s.pteaddr) (tlbmiscPid s.tlbmisc))
      tlbmisc := setTlbmiscWay s.tlbmisc (BitVec.ofNat 4 ((s.selectedWay + 1) % s.cfg.tlbWays)) } := by
  unfold State.tlbWrite; rw [if_pos h]

theorem tlbWrite_of_not_we (s : State) (h : tlbmiscWe s.tlbmisc = false) : s.tlbWrite = s := by
  unfold State.tlbWrite; simp [h]

theorem accBits_getLsbD (e : TlbEntry) (i : Nat) : e.accBits.getLsbD i =
    if i < 20 then e.pfn.getLsbD i else if i - 20 < 1 then (BitVec.ofBool e.g).getLsbD (i - 20) else
    if i - 20 - 1 < 1 then (BitVec.ofBool e.x).getLsbD (i - 20 - 1) else
    if i - 20 - 1 - 1 < 1 then (BitVec.ofBool e.w).getLsbD (i - 20 - 1 - 1) else
    if i - 20 - 1 - 1 - 1 < 1 then (BitVec.ofBool e.r).getLsbD (i - 20 - 1 - 1 - 1) else
    (BitVec.ofBool e.c).getLsbD (i - 20 - 1 - 1 - 1 - 1) := by
  show BitVec.getLsbD (w := 1 + 1 + 1 + 1 + 1 + 20) (BitVec.ofBool e.c ++ BitVec.ofBool e.r ++ BitVec.ofBool e.w ++
    BitVec.ofBool e.x ++ BitVec.ofBool e.g ++ e.pfn) i = _
  rw [BitVec.getLsbD_append, BitVec.getLsbD_append, BitVec.getLsbD_append, BitVec.getLsbD_append, BitVec.getLsbD_append]

theorem accBits_fields (e : TlbEntry) : e.accBits.extractLsb' 0 20 = e.pfn ∧ e.accBits.getLsbD 20 = e.g
    ∧ e.accBits.getLsbD 21 = e.x ∧ e.accBits.getLsbD 22 = e.w ∧ e.accBits.getLsbD 23 = e.r ∧ e.accBits.getLsbD 24
        = e.c := by
  refine ⟨?_, ?_, ?_, ?_, ?_, ?_⟩
  · apply BitVec.eq_of_getLsbD_eq
    intro i hi
    rw [BitVec.getLsbD_extractLsb', accBits_getLsbD]
    simp [hi]
  all_goals rw [accBits_getLsbD]; simp

theorem insertField_low25 (w : Word) (v : BitVec 25) (i : Nat) (h : i < 25) : (insertField w 0 25 v).getLsbD i
    = v.getLsbD i := by
  rw [getLsbD_insertField _ _ _ _ _ (by omega), if_pos (by omega)]; simp

end Sys2Proof.Machine
end

