-- ==== Sys2Proof/Laws/Encode.lean ====
section
/-! SUPPORT. The fields of an encoded word, and that of every instruction in its row of spec/opcode_table.json. -/

namespace Sys2Proof

/-! ### I-type (30_encoding.md R111) -/

@[simp] theorem fieldOp_encodeI (op : BitVec 6) (a b : RegNum) (imm16 : BitVec 16) : fieldOp (encodeI op a b imm16) = op := by
  apply BitVec.eq_of_toNat_eq
  simp only [fieldOp, encodeI, BitVec.extractLsb'_toNat, BitVec.toNat_append, ← Nat.shiftLeft_add_eq_or_of_lt (BitVec.isLt _)]
  simp only [Nat.shiftLeft_eq, Nat.shiftRight_eq_div_pow]
  omega

@[simp] theorem fieldA_encodeI (op : BitVec 6) (a b : RegNum) (imm16 : BitVec 16) : fieldA (encodeI op a b imm16) = a := by
  apply BitVec.eq_of_toNat_eq
  simp only [fieldA, encodeI, BitVec.extractLsb'_toNat, BitVec.toNat_append, ← Nat.shiftLeft_add_eq_or_of_lt (BitVec.isLt _)]
  simp only [Nat.shiftLeft_eq, Nat.shiftRight_eq_div_pow]
  omega

@[simp] theorem fieldB_encodeI (op : BitVec 6) (a b : RegNum) (imm16 : BitVec 16) : fieldB (encodeI op a b imm16) = b := by
  apply BitVec.eq_of_toNat_eq
  simp only [fieldB, encodeI, BitVec.extractLsb'_toNat, BitVec.toNat_append, ← Nat.shiftLeft_add_eq_or_of_lt (BitVec.isLt _)]
  simp only [Nat.shiftLeft_eq, Nat.shiftRight_eq_div_pow]
  omega

@[simp] theorem fieldImm16_encodeI (op : BitVec 6) (a b : RegNum) (imm16 : BitVec 16) : fieldImm16 (encodeI op a b imm16) = imm16 := by
  apply BitVec.eq_of_toNat_eq
  simp only [fieldImm16, encodeI, BitVec.extractLsb'_toNat, BitVec.toNat_append, ← Nat.shiftLeft_add_eq_or_of_lt (BitVec.isLt _)]
  simp only [Nat.shiftLeft_eq, Nat.shiftRight_eq_div_pow]
  omega

/-! ### R-type (30_encoding.md R112) -/

@[simp] theorem fieldOp_encodeR (opx : BitVec 6) (a b c : RegNum) (imm5 : BitVec 5) : fieldOp (encodeR opx a b c imm5) = 0x3A#6 := by
  apply BitVec.eq_of_toNat_eq
  simp only [fieldOp, encodeR, BitVec.extractLsb'_toNat, BitVec.toNat_append, ← Nat.shiftLeft_add_eq_or_of_lt (BitVec.isLt _)]
  simp only [Nat.shiftLeft_eq, Nat.shiftRight_eq_div_pow]
  omega

@[simp] theorem fieldA_encodeR (opx : BitVec 6) (a b c : RegNum) (imm5 : BitVec 5) : fieldA (encodeR opx a b c imm5) = a := by
  apply BitVec.eq_of_toNat_eq
  simp only [fieldA, encodeR, BitVec.extractLsb'_toNat, BitVec.toNat_append, ← Nat.shiftLeft_add_eq_or_of_lt (BitVec.isLt _)]
  simp only [Nat.shiftLeft_eq, Nat.shiftRight_eq_div_pow]
  omega

@[simp] theorem fieldB_encodeR (opx : BitVec 6) (a b c : RegNum) (imm5 : BitVec 5) : fieldB (encodeR opx a b c imm5) = b := by
  apply BitVec.eq_of_toNat_eq
  simp only [fieldB, encodeR, BitVec.extractLsb'_toNat, BitVec.toNat_append, ← Nat.shiftLeft_add_eq_or_of_lt (BitVec.isLt _)]
  simp only [Nat.shiftLeft_eq, Nat.shiftRight_eq_div_pow]
  omega

@[simp] theorem fieldC_encodeR (opx : BitVec 6) (a b c : RegNum) (imm5 : BitVec 5) : fieldC (encodeR opx a b c imm5) = c := by
  apply BitVec.eq_of_toNat_eq
  simp only [fieldC, encodeR, BitVec.extractLsb'_toNat, BitVec.toNat_append, ← Nat.shiftLeft_add_eq_or_of_lt (BitVec.isLt _)]
  simp only [Nat.shiftLeft_eq, Nat.shiftRight_eq_div_pow]
  omega

@[simp] theorem fieldOpx_encodeR (opx : BitVec 6) (a b c : RegNum) (imm5 : BitVec 5) : fieldOpx (encodeR opx a b c imm5) = opx := by
  apply BitVec.eq_of_toNat_eq
  simp only [fieldOpx, encodeR, BitVec.extractLsb'_toNat, BitVec.toNat_append, ← Nat.shiftLeft_add_eq_or_of_lt (BitVec.isLt _)]
  simp only [Nat.shiftLeft_eq, Nat.shiftRight_eq_div_pow]
  omega

@[simp] theorem fieldImm5_encodeR (opx : BitVec 6) (a b c : RegNum) (imm5 : BitVec 5) : fieldImm5 (encodeR opx a b c imm5) = imm5 := by
  apply BitVec.eq_of_toNat_eq
  simp only [fieldImm5, encodeR, BitVec.extractLsb'_toNat, BitVec.toNat_append, ← Nat.shiftLeft_add_eq_or_of_lt (BitVec.isLt _)]
  simp only [Nat.shiftLeft_eq, Nat.shiftRight_eq_div_pow]
  omega

/-! ### J-type (30_encoding.md R113) -/

@[simp] theorem fieldOp_encodeJ (op : BitVec 6) (imm26 : BitVec 26) : fieldOp (encodeJ op imm26) = op := by
  apply BitVec.eq_of_toNat_eq
  simp only [fieldOp, encodeJ, BitVec.extractLsb'_toNat, BitVec.toNat_append, ← Nat.shiftLeft_add_eq_or_of_lt (BitVec.isLt _)]
  simp only [Nat.shiftLeft_eq, Nat.shiftRight_eq_div_pow]
  omega

@[simp] theorem fieldImm26_encodeJ (op : BitVec 6) (imm26 : BitVec 26) : fieldImm26 (encodeJ op imm26) = imm26 := by
  apply BitVec.eq_of_toNat_eq
  simp only [fieldImm26, encodeJ, BitVec.extractLsb'_toNat, BitVec.toNat_append, ← Nat.shiftLeft_add_eq_or_of_lt (BitVec.isLt _)]
  simp only [Nat.shiftLeft_eq, Nat.shiftRight_eq_div_pow]
  omega

end Sys2Proof
end

