-- ==== Sys2Proof/Laws/Exec.lean ====
section
/-! SUPPORT. What any instruction can do to the state, said once. -/

namespace Sys2Proof.Machine

/-- The next states instruction `i` can give: a result, nothing but the successor, a transfer with or without link, an
exception with or without fault record, a store, a return from exception, a control-register write, or a break the host
takes. Each names the instructions that alone give it. -/
inductive Effect (i : Instr) (s : State) : State → Prop where
  | result (r : RegNum) (v : Word) (hi : roleOf i = .result r) : Effect i s (s.writeReg r v).advance
  | nothing : Effect i s s.advance
  | transfer (u : Word) (h : aligned4 u = true) (hi : roleOf i = .transfer) : Effect i s (s.jumpTo u)
  | link (u : Word) (h : aligned4 u = true) (hi : roleOf i = .link) : Effect i s ((s.writeReg regRa s.pcNext).jumpTo u)
  | exception (c : Cause) (hc : c ≠ .interrupt) : Effect i s (dispatch c s.pc s)
  | badTarget (u : Word) : Effect i s (dispatch .misalignedDestinationAddress s.pc { s with badaddr := u })
  | badAccess (f : MemFault) (k : AccessKind) (va : Word) : Effect i s (raiseMemFault f k va s)
  | stored (pa : Word) (n : Width) (v : Word) (hi : isStoreInstr i = true) : Effect i s (State.advance { s with mem := s.mem.store pa n v })
  | returned (u : Word) (hi : i = .eret) (h : aligned4 u = true) (hp : s.returnRejected = false) : Effect i s (returnFromException u s)
  | wroteCtl (n ra : RegNum) (hi : i = .wrctl n ra) (hu : s.user = false) :
    Effect i s (s.writeCtl n (s.readReg ra)).advance.endBlock
  | hostBreak (h : s.cfg.hostInterceptsDebug = true) (hi : ∃ imm5, i = .brk imm5) : Effect i s (s.returnToHost .hitBreakpoint)

theorem aligned4_iff (v : Word) : aligned4 v = true ↔ v.toNat % 4 = 0 := by
  simp only [aligned4, beq_iff_eq]
  constructor
  · intro h
    have := congrArg BitVec.toNat h
    simpa [BitVec.extractLsb'_toNat] using this
  · intro h
    apply BitVec.eq_of_toNat_eq
    simpa [BitVec.extractLsb'_toNat] using h

theorem aligned4_add {a b : Word} (ha : aligned4 a = true) (hb : aligned4 b = true) : aligned4 (a + b) = true := by
  rw [aligned4_iff] at *
  simp only [BitVec.toNat_add]
  omega

theorem aligned4_pcNext {s : State} (h : aligned4 s.pc = true) : aligned4 s.pcNext = true := aligned4_add h rfl

theorem aligned4_immBranch (imm16 : BitVec 16) : aligned4 (immBranch imm16) = true := by
  simp only [aligned4, beq_iff_eq, immBranch]
  apply BitVec.eq_of_getLsbD_eq
  intro i hi
  have h2 : i = 0 ∨ i = 1 := by omega
  rcases h2 with rfl | rfl <;> simp

theorem aligned4_branchTarget {s : State} (h : aligned4 s.pc = true) (imm16 : BitVec 16) :
    aligned4 (s.branchTarget imm16) = true := aligned4_add (aligned4_pcNext h) (aligned4_immBranch imm16)

theorem aligned4_absoluteTarget (s : State) (imm26 : BitVec 26) : aligned4 (s.absoluteTarget imm26) = true := by
  rw [aligned4_iff]
  simp only [State.absoluteTarget, BitVec.toNat_append, BitVec.toNat_ofNat]
  rw [← Nat.shiftLeft_add_eq_or_of_lt (by decide)]
  simp only [Nat.shiftLeft_eq]
  omega

theorem effect_writeResult {i : Instr} {r : RegNum} {v : Word} {s t : State} (hi : roleOf i = .result r) (h : writeResult r v s = .next t) : Effect i s t :=
  writeResult_next h ▸ .result r v hi

theorem effect_load {i : Instr} {n : Width} {e : Word → Word} {rb ra : RegNum} {imm16 : BitVec 16} {s t : State}
    (hi : roleOf i = .result rb) (h : load n e rb ra imm16 s = .next t) : Effect i s t := by
  rcases memRead_next h with ⟨f, -, rfl⟩ | ⟨pa, -, -, rfl⟩
  · exact .badAccess f .read _
  · exact .result rb _ hi

theorem effect_store {i : Instr} {n : Width} {rb ra : RegNum} {imm16 : BitVec 16} {s t : State}
    (hi : isStoreInstr i = true) (h : store n rb ra imm16 s = .next t) : Effect i s t := by
  rcases memWrite_next h with ⟨f, -, rfl⟩ | ⟨pa, -, -, rfl⟩
  · exact .badAccess f .write _
  · exact .stored pa n _ hi

theorem effect_branch {i : Instr} {b : Bool} {imm16 : BitVec 16} {s t : State} (hi : roleOf i = .transfer)
    (hp : aligned4 s.pc = true) (h : branch b imm16 s = .next t) : Effect i s t := by
  cases h
  refine .transfer _ ?_ hi
  cases b
  · exact aligned4_pcNext hp
  · exact aligned4_branchTarget hp imm16

theorem effect_raise {i : Instr} {c : Cause} {s t : State} (hc : c ≠ .interrupt) (h : raise c s = .next t) :
    Effect i s t := by
  cases h; exact .exception c hc

/-- Whatever instruction runs, its next state is one of `Effect`. -/
theorem exec_effect {i : Instr} {s t : State} (hp : aligned4 s.pc = true) (h : exec i s = .next t) : Effect i s t := by
  cases i <;> simp only [exec] at h
  case add rc ra rb => exact effect_writeResult rfl h
  case addi rb ra imm16 => exact effect_writeResult rfl h
  case sub rc ra rb => exact effect_writeResult rfl h
  case mul rc ra rb => exact effect_writeResult rfl h
  case muli rb ra imm16 => exact effect_writeResult rfl h
  case mulxss rc ra rb => exact effect_writeResult rfl h
  case mulxsu rc ra rb => exact effect_writeResult rfl h
  case mulxuu rc ra rb => exact effect_writeResult rfl h
  case div rc ra rb => exact effect_writeResult rfl h
  case divu rc ra rb => exact effect_writeResult rfl h
  case and rc ra rb => exact effect_writeResult rfl h
  case andi rb ra imm16 => exact effect_writeResult rfl h
  case andhi rb ra imm16 => exact effect_writeResult rfl h
  case or rc ra rb => exact effect_writeResult rfl h
  case ori rb ra imm16 => exact effect_writeResult rfl h
  case orhi rb ra imm16 => exact effect_writeResult rfl h
  case xor rc ra rb => exact effect_writeResult rfl h
  case xori rb ra imm16 => exact effect_writeResult rfl h
  case xorhi rb ra imm16 => exact effect_writeResult rfl h
  case nor rc ra rb => exact effect_writeResult rfl h
  case cmpeq rc ra rb => exact effect_writeResult rfl h
  case cmpne rc ra rb => exact effect_writeResult rfl h
  case cmpge rc ra rb => exact effect_writeResult rfl h
  case cmpgeu rc ra rb => exact effect_writeResult rfl h
  case cmplt rc ra rb => exact effect_writeResult rfl h
  case cmpltu rc ra rb => exact effect_writeResult rfl h
  case cmpeqi rb ra imm16 => exact effect_writeResult rfl h
  case cmpnei rb ra imm16 => exact effect_writeResult rfl h
  case cmpgei rb ra imm16 => exact effect_writeResult rfl h
  case cmpgeui rb ra imm16 => exact effect_writeResult rfl h
  case cmplti rb ra imm16 => exact effect_writeResult rfl h
  case cmpltui rb ra imm16 => exact effect_writeResult rfl h
  case sll rc ra rb => exact effect_writeResult rfl h
  case slli rc ra imm5 => exact effect_writeResult rfl h
  case srl rc ra rb => exact effect_writeResult rfl h
  case srli rc ra imm5 => exact effect_writeResult rfl h
  case sra rc ra rb => exact effect_writeResult rfl h
  case srai rc ra imm5 => exact effect_writeResult rfl h
  case rol rc ra rb => exact effect_writeResult rfl h
  case roli rc ra imm5 => exact effect_writeResult rfl h
  case ror rc ra rb => exact effect_writeResult rfl h
  case ldb rb ra imm16 => exact effect_load rfl h
  case ldbu rb ra imm16 => exact effect_load rfl h
  case ldh rb ra imm16 => exact effect_load rfl h
  case ldhu rb ra imm16 => exact effect_load rfl h
  case ldw rb ra imm16 => exact effect_load rfl h
  case ldbio rb ra imm16 => exact effect_load rfl h
  case ldbuio rb ra imm16 => exact effect_load rfl h
  case ldhio rb ra imm16 => exact effect_load rfl h
  case ldhuio rb ra imm16 => exact effect_load rfl h
  case ldwio rb ra imm16 => exact effect_load rfl h
  case stb rb ra imm16 => exact effect_store rfl h
  case sth rb ra imm16 => exact effect_store rfl h
  case stw rb ra imm16 => exact effect_store rfl h
  case stbio rb ra imm16 => exact effect_store rfl h
  case sthio rb ra imm16 => exact effect_store rfl h
  case stwio rb ra imm16 => exact effect_store rfl h
  case br imm16 => exact effect_branch rfl hp h
  case beq ra rb imm16 => exact effect_branch rfl hp h
  case bne ra rb imm16 => exact effect_branch rfl hp h
  case bge ra rb imm16 => exact effect_branch rfl hp h
  case bgeu ra rb imm16 => exact effect_branch rfl hp h
  case blt ra rb imm16 => exact effect_branch rfl hp h
  case bltu ra rb imm16 => exact effect_branch rfl hp h
  case call imm26 => cases h; exact .link _ (aligned4_absoluteTarget s imm26) rfl
  case jmpi imm26 => cases h; exact .transfer _ (aligned4_absoluteTarget s imm26) rfl
  case callr ra =>
    rcases jumpRegister_next h with ⟨hu, rfl⟩ | ⟨-, rfl⟩
    · exact .link _ hu rfl
    · exact .badTarget _
  case jmp ra =>
    rcases jumpRegister_next h with ⟨hu, rfl⟩ | ⟨-, rfl⟩
    · exact .transfer _ hu rfl
    · exact .badTarget _
  case ret =>
    rcases jumpRegister_next h with ⟨hu, rfl⟩ | ⟨-, rfl⟩
    · exact .transfer _ hu rfl
    · exact .badTarget _
  case nextpc rc => exact effect_writeResult rfl h
  case trap imm5 => exact effect_raise (by decide) h
  case brk imm5 =>
    unfold execBrk at h
    split at h
    · next hh => cases h; exact .hostBreak hh ⟨imm5, rfl⟩
    · exact effect_raise (by decide) h
  case bret =>
    unfold execBret at h
    split at h
    · exact effect_raise (by decide) h
    · next hr =>
      rcases jumpRegister_next h with ⟨hu, rfl⟩ | ⟨-, rfl⟩
      · exact .transfer _ hu rfl
      · exact .badTarget _
  case eret =>
    unfold execEret at h
    split at h
    · exact effect_raise (by decide) h
    · next hr =>
      rcases jumpRegister_next h with ⟨hu, rfl⟩ | ⟨-, rfl⟩
      · exact .returned _ rfl hu (by simpa using hr)
      · exact .badTarget _
  case rdctl rc n =>
    unfold execRdctl at h
    split at h
    · exact effect_raise (by decide) h
    · exact effect_writeResult rfl h
  case wrctl n ra =>
    unfold execWrctl at h
    split at h
    · exact effect_raise (by decide) h
    · next hu => cases h; exact .wroteCtl n ra rfl (by simpa using hu)
  case sync => cases h; exact .nothing
  case flushd ra imm16 => cases h; exact .nothing
  case flushda ra imm16 => cases h; exact .nothing
  case flushi ra => cases h; exact .nothing
  case flushp => cases h; exact .nothing
  case initd ra imm16 => cases h; exact .nothing
  case initda ra imm16 => cases h; exact .nothing
  case initi ra => cases h; exact .nothing
  case custom payload => exact effect_raise (by decide) h
  case rdprs rb ra imm16 => exact effect_raise (by decide) h
  case wrprs rc ra => exact effect_raise (by decide) h

end Sys2Proof.Machine
end

