-- ==== Sys2Proof/Laws/Invariant.lean ====
section
/-! SUPPORT. The invariant through each shared operation, and what an instruction leaves as it was. -/

namespace Sys2Proof.Machine

/-! ### Valid parameters -/

theorem tlbWays_pos (c : Config) : 0 < c.tlbWays := Nat.two_pow_pos _

theorem tlbWays_le (c : Config) : c.tlbWays ≤ 16 :=
  show 2 ^ c.tlbWaysLog2.val ≤ 2 ^ 4 from Nat.pow_le_pow_right (by decide) (Nat.le_of_lt_succ c.tlbWaysLog2.isLt)

theorem tlbSets_pos (c : Config) : 0 < c.tlbSets := Nat.two_pow_pos _

theorem blockBudget_pos (c : Config) : 0 < c.blockBudget := Nat.succ_pos _

/-- What a valid configuration says, one clause each. -/
structure ValidParts (c : Config) : Prop where
  reset : aligned4 c.resetAddr = true
  exc : aligned4 c.exceptionAddr = true
  fast : aligned4 c.fastTlbMissAddr = true

theorem validParts {c : Config} (h : validConfig c = true) : ValidParts c := by
  simp only [validConfig, Bool.and_eq_true] at h
  exact ⟨h.1.1, h.1.2, h.2⟩

/-! ### The part of the invariant that an instruction alone keeps -/

/-- `MachineInv` without its clause on the block, which only `endStep` restores. -/
structure CoreInv (s : State) : Prop where
  config : validConfig s.cfg = true
  pcAligned : aligned4 s.pc = true
  memory : Memory.wf s.mem = true
  tlbShape : s.tlb.length = s.cfg.tlbSize
  pteaddrLow : s.pteaddr.extractLsb' 0 2 = 0#2
  tlbmiscRdZero : tlbmiscRd s.tlbmisc = false

theorem MachineInv.core {s : State} (h : MachineInv s) : CoreInv s := ⟨h.1, h.2, h.3, h.4, h.5, h.6⟩

theorem coreInv_of {s t : State} (h : CoreInv s) (hc : t.cfg = s.cfg) (hp : aligned4 t.pc = true) (hm : t.mem.wf
    = true) (ht : t.tlb.length = s.tlb.length)
   (h1 : t.pteaddr.extractLsb' 0 2 = 0#2) (h2 : tlbmiscRd t.tlbmisc = false) : CoreInv t :=
  ⟨by rw [hc]; exact h.1, hp, hm, by rw [ht, hc]; exact h.4, h1, h2⟩

theorem dispatch_pc_aligned {s : State} (h : CoreInv s) (c pc) : aligned4 (dispatch c pc s).pc = true := by
  rw [(dispatch_enters c pc s).vector]
  have := validParts h.config
  split
  · exact this.fast
  · exact this.exc

theorem setPteaddrVpn_low (v : Word) (vpn) (h : v.extractLsb' 0 2 = 0#2) : (setPteaddrVpn v vpn).extractLsb' 0 2 = 0#2
    := by
  unfold setPteaddrVpn
  rw [extract_insertField_of_disjoint _ _ _ _ _ _ (by omega) (by omega)]; exact h

theorem coreInv_dispatch {s : State} (h : CoreInv s) (c pc) : CoreInv (dispatch c pc s) :=
  coreInv_of h (by simp) (dispatch_pc_aligned h c pc) (by simp; exact h.memory) (by simp) (by simp; exact h.pteaddrLow)
    (by unfold tlbmiscRd; rw [dispatch_tlbmisc_bit _ _ _ _ (by omega) (by omega)]; exact h.tlbmiscRdZero)

theorem coreInv_recordFault {s : State} (h : CoreInv s) (f k va) : CoreInv (recordFault f k va s) := by
  refine coreInv_of h (by simp) (by simp; exact h.pcAligned) (by simp; exact h.memory) (by simp) ?_ ?_
  · cases f <;> first | exact h.pteaddrLow | exact setPteaddrVpn_low _ _ h.pteaddrLow
  · cases f
    · exact h.tlbmiscRdZero
    · exact h.tlbmiscRdZero
    all_goals
      show (setTlbmiscD _ _).getLsbD 19 = false
      rw [setTlbmiscD_bit _ _ _ (by omega)]; exact h.tlbmiscRdZero

theorem clearTlbmiscRd_rd (v : Word) : tlbmiscRd (clearTlbmiscRd v) = false := by
  unfold tlbmiscRd clearTlbmiscRd
  rw [getLsbD_insertField _ _ _ _ _ (by omega), if_pos (by omega)]; rfl

theorem mask_pteaddr_low (v : Word) : (v &&& 0xFFFFFFFC#32).extractLsb' 0 2 = 0#2 := by
  apply BitVec.eq_of_getLsbD_eq
  intro i hi
  have : i = 0 ∨ i = 1 := by omega
  rcases this with rfl | rfl <;> simp

theorem coreInv_storeCtl {s : State} (h : CoreInv s) (n v) : CoreInv (s.storeCtl n v) := by
  refine coreInv_of h (by simp) (by simp; exact h.pcAligned) (by simp; exact h.memory) (by simp) ?_ ?_
  · unfold State.storeCtl; split <;> first | exact mask_pteaddr_low v | exact h.pteaddrLow
  · unfold State.storeCtl; split <;> first | exact clearTlbmiscRd_rd v | exact h.tlbmiscRdZero

theorem coreInv_writeCtl {s : State} (h : CoreInv s) (n v) : CoreInv (s.writeCtl n v) := by
  have h' := coreInv_storeCtl h n v
  rcases writeCtl_cases s n v with e | ⟨-, -, e⟩ | ⟨-, -, -, e⟩ <;> rw [e]
  · exact h'
  · refine coreInv_of h' (by simp) (by simp; exact h.pcAligned) (by simp; exact h.memory) ?_
      (by rw [tlbWrite_pteaddr]; exact h'.pteaddrLow) ?_
    · unfold State.tlbWrite; split <;> simp
    · unfold State.tlbWrite; split
      · show (setTlbmiscWay _ _).getLsbD 19 = false
        rw [setTlbmiscWay_bit _ _ _ (by omega)]; exact h'.tlbmiscRdZero
      · exact h'.tlbmiscRdZero
  · refine coreInv_of h' (by simp) (by simp; exact h.pcAligned) (by simp; exact h.memory) (by simp) ?_ ?_
    · exact setPteaddrVpn_low _ _ h'.pteaddrLow
    · show (setTlbmiscPid _ _).getLsbD 19 = false
      unfold setTlbmiscPid
      rw [getLsbD_insertField _ _ _ _ _ (by omega), if_neg (by omega)]; exact h'.tlbmiscRdZero

/-- Changing neither memory, TLB, `pteaddr` nor `tlbmisc` keeps it, if `pc` stays aligned. -/
theorem coreInv_of_same {s t : State} (h : CoreInv s) (hp : aligned4 t.pc = true) (hc : t.cfg = s.cfg) (hm : t.mem = s.mem)
    (ht : t.tlb = s.tlb) (h1 : t.pteaddr = s.pteaddr) (h2 : t.tlbmisc = s.tlbmisc) : CoreInv t :=
  coreInv_of h hc hp (hm ▸ h.memory) (ht ▸ rfl) (h1 ▸ h.pteaddrLow) (h2 ▸ h.tlbmiscRdZero)

/-- Every instruction keeps it. -/
theorem coreInv_effect {i : Instr} {s t : State} (h : CoreInv s) (e : Effect i s t) : CoreInv t := by
  have hn : aligned4 (s.pc + 4#32) = true := aligned4_pcNext h.pcAligned
  cases e with
  | result r v hi =>
    exact coreInv_of_same h (by simpa [State.pcNext] using hn) (by simp) (by simp) (by simp) (by simp) (by simp)
  | nothing =>
    exact coreInv_of_same h (by simpa [State.pcNext] using hn) (by simp) (by simp) (by simp) (by simp) (by simp)
  | transfer u hu hi => exact coreInv_of_same h hu (by simp) (by simp) (by simp) (by simp) (by simp)
  | link u hu hi => exact coreInv_of_same h hu (by simp) (by simp) (by simp) (by simp) (by simp)
  | exception c hc => exact coreInv_dispatch h c _
  | badTarget u => exact coreInv_dispatch (s := { s with badaddr := u }) ⟨h.1, h.2, h.3, h.4, h.5, h.6⟩ _ _
  | badAccess f k va => exact coreInv_dispatch (coreInv_recordFault h f k va) _ _
  | stored pa n v hi =>
    exact coreInv_of h (by simp) hn (Memory.wf_store h.memory _ _ _) (by simp) h.pteaddrLow h.tlbmiscRdZero
  | returned u hi hu hp => exact coreInv_of_same h hu (by simp) (by simp) (by simp) (by simp) (by simp)
  | wroteCtl n ra hi hu =>
    exact coreInv_of_same (coreInv_writeCtl h n (s.readReg ra)) (by simpa [State.pcNext] using hn) (by simp) (by simp)
      (by simp) (by simp) (by simp)
  | hostBreak hh hi => exact coreInv_of_same h h.pcAligned (by simp) (by simp) (by simp) (by simp) (by simp)

/-! ### Through a step -/

/-- Fetching, decoding and executing gives an effect of some instruction. -/
theorem fetchDecodeExecute_effect {s t : State} (hp : aligned4 s.pc = true) (h : fetchDecodeExecute s
    = .next t) : ∃ i, Effect i s t := by
  unfold fetchDecodeExecute at h
  split at h
  · cases h; exact ⟨.sync, .badAccess _ _ _⟩
  · cases h
  split at h
  · exact ⟨_, exec_effect hp h⟩
  · exact ⟨_, exec_effect hp h⟩
  · exact ⟨.sync, effect_raise (by decide) h⟩

theorem effect_keepsInputs {i : Instr} {s t : State} (e : Effect i s t) : t.cfg = s.cfg ∧ t.lines = s.lines
    ∧ t.breakpoints = s.breakpoints ∧ t.stopFlag = s.stopFlag ∧ t.blockCount = s.blockCount ∧ t.draws = s.draws := by
  cases e <;> simp [raiseMemFault]

theorem aligned4_of_refusal {s : State} (h : s.refusal = none) : aligned4 s.pc = true := by
  unfold State.refusal at h
  split at h
  · cases h
  split at h
  · cases h
  rename_i h2; simpa using h2

theorem coreInv_beginStep {s : State} (h : CoreInv s) : CoreInv s.beginStep := ⟨h.1, h.2, h.3, h.4, h.5, h.6⟩

theorem coreInv_endStep {s t : State} (h : CoreInv t) : CoreInv (s.endStep t) := ⟨h.1, h.2, h.3, h.4, h.5, h.6⟩

theorem coreInv_returnToHost {s : State} (h : CoreInv s) (w) : CoreInv (s.returnToHost w) := ⟨h.1, h.2, h.3, h.4, h.5,
    h.6⟩

theorem endStep_withinBudget (s t : State) (hc : t.cfg = s.cfg) : (s.endStep t).blockBoundary = true ∨
    (s.endStep t).blockCount < (s.endStep t).cfg.blockBudget := by
  rw [endStep_cfg, hc]
  simp only [State.endStep, Bool.or_eq_true, decide_eq_true_eq]
  omega

theorem coreInv_debugEvent {s : State} (h : CoreInv s) : CoreInv (debugEvent s) := by
  unfold debugEvent; split
  · exact coreInv_returnToHost h _
  · exact coreInv_returnToHost (coreInv_dispatch h _ _) _

theorem debugEvent_keepsInputs (s : State) : (debugEvent s).cfg = s.cfg ∧ (debugEvent s).lines = s.lines ∧
    (debugEvent s).breakpoints = s.breakpoints ∧ (debugEvent s).stopFlag = s.stopFlag := by
  unfold debugEvent; split <;> simp

theorem machineInv_of {s : State} (h : CoreInv s) (hb : s.blockBoundary = true
    ∨ s.blockCount < s.cfg.blockBudget) : MachineInv s := ⟨h.1, h.2, h.3, h.4, h.5, h.6, hb⟩

/-! ### Who writes what -/

/-- Only a store writes memory. -/
theorem effect_mem {i : Instr} {s t : State} (e : Effect i s t) (h : isStoreInstr i = false) : t.mem = s.mem := by
  cases e with
  | stored pa n v hi => rw [h] at hi; cases hi
  | _ => simp [raiseMemFault]

/-- Only `wrctl tlbacc` with WE = 1 in supervisor mode writes the TLB. -/
theorem effect_tlb {i : Instr} {s t : State} (e : Effect i s t) : t.tlb = s.tlb ∨ ((∃ ra, i = .wrctl 9#5 ra) ∧ s.user
    = false ∧ tlbmiscWe s.tlbmisc = true ∧ s.cfg.mmuPresent = true) := by
  cases e with
  | wroteCtl n ra hi hu =>
    rcases writeCtl_cases s n (s.readReg ra) with e | ⟨hm, hn, e⟩ | ⟨-, -, -, e⟩
    · left; simp [e]
    · subst hn
      cases hw : tlbmiscWe s.tlbmisc
      · left
        have : (s.storeCtl 9#5 (s.readReg ra)).tlbWrite = s.storeCtl 9#5 (s.readReg ra) := tlbWrite_of_not_we _ hw
        simp [e, this]
      · exact .inr ⟨⟨ra, hi⟩, hu, rfl, hm⟩
    · left; simp [e]
  | _ => left; simp [raiseMemFault]

/-- The three ways an instruction can dispatch, as one: the cause, the context saved, and what else may differ. -/
structure Dispatched (s t : State) (c : Cause) : Prop where
  enters : EntersHandler s t c
  notInterrupt : c ≠ .interrupt
  saves : c ≠ .debugBreak → SavesContext s t (s.pc + 4#32)
  savesBreak : c = .debugBreak → SavesBreakContext s t (s.pc + 4#32)
  otherCtl : ∀ n, n ≠ 0#5 → n ≠ 1#5 → n ≠ 2#5 → n ≠ 7#5 → (n = 8#5 → c ≠ .tlbMiss) → (n = 10#5 → c.tlbRow = .none) →
    (n = 12#5 → c ∉ badaddrCauses) → t.readCtl n = s.readCtl n

theorem dispatched_exception {c : Cause} (hc : c ≠ .interrupt) (s : State) : Dispatched s (dispatch c s.pc s) c :=
  ⟨dispatch_enters c s.pc s, hc, fun h => dispatch_saves h s.pc s, fun h => h ▸ dispatch_savesBreak s.pc s,
    fun n h0 h1 h2 h7 _ h10 _ => dispatch_readCtl_of_others c s.pc s n h0 h1 h2 h7
      (fun h => dispatch_tlbmisc_of_none (h10 h) s.pc s)⟩

theorem dispatched_badTarget (s : State) (u : Word) :
    Dispatched s (dispatch .misalignedDestinationAddress s.pc { s with badaddr := u }) .misalignedDestinationAddress :=
  have f := dispatch_badTarget_frame s u
  ⟨f.1, by decide, fun _ => f.2.1, nofun, fun n n0 n1 n2 n7 _ _ n12 =>
    f.2.2 n n0 n1 n2 n7 (fun h => absurd (by decide) (n12 h))⟩

theorem dispatched_badAccess (f : MemFault) (k : AccessKind) (va : Word) (s : State) :
    Dispatched s (raiseMemFault f k va s) (f.cause k) := by
  obtain ⟨e, c, r⟩ := accessRejected_raiseMemFault f k va s
  refine ⟨e, by cases f <;> cases k <;> decide, fun _ => c, fun h => absurd h (cause_ne_debugBreak f k), ?_⟩
  intro n n0 n1 n2 n7 n8 n10 n12
  by_cases h12 : n = 12#5
  · exact absurd (by cases f <;> cases k <;> decide) (n12 h12)
  by_cases h8 : n = 8#5
  · subst h8
    exact r.pteaddrKept (fun h => n8 rfl ((cause_eq_tlbMiss f k).2 h))
  by_cases h10 : n = 10#5
  · subst h10
    have h := n10 rfl
    exact r.tlbmiscKept (by revert h; cases f <;> cases k <;> decide)
  exact r.otherCtl n n0 n1 n2 n7 h8 h10 h12

/-- An effect that is no dispatch, by what it leaves: the outcomes of an instruction that raises nothing. -/
inductive Quiet (i : Instr) (s : State) : State → Prop where
  | result (r : RegNum) (v : Word) (hi : roleOf i = .result r) : Quiet i s (s.writeReg r v).advance
  | nothing : Quiet i s s.advance
  | transfer (u : Word) (hi : roleOf i = .transfer) : Quiet i s (s.jumpTo u)
  | link (u : Word) (hi : roleOf i = .link) : Quiet i s ((s.writeReg regRa s.pcNext).jumpTo u)
  | stored (pa : Word) (n : Width) (v : Word) (hi : isStoreInstr i = true) :
    Quiet i s (State.advance { s with mem := s.mem.store pa n v })
  | returned (u : Word) (hi : i = .eret) : Quiet i s (returnFromException u s)
  | wroteCtl (n ra : RegNum) (hi : i = .wrctl n ra) (hu : s.user = false) :
    Quiet i s (s.writeCtl n (s.readReg ra)).advance.endBlock
  | hostBreak (h : s.cfg.hostInterceptsDebug = true) (hi : ∃ imm5, i = .brk imm5) :
    Quiet i s (s.returnToHost .hitBreakpoint)

/-- An instruction dispatches, or has an effect of its own. -/
theorem effect_dispatched_or_quiet {i : Instr} {s t : State} (e : Effect i s t) : (∃ c, Dispatched s t c) ∨ Quiet i s t := by
  cases e with
  | exception c hc => exact .inl ⟨c, dispatched_exception hc s⟩
  | badTarget u => exact .inl ⟨_, dispatched_badTarget s u⟩
  | badAccess f k va => exact .inl ⟨_, dispatched_badAccess f k va s⟩
  | result r v hi => exact .inr (.result r v hi)
  | nothing => exact .inr .nothing
  | transfer u _ hi => exact .inr (.transfer u hi)
  | link u _ hi => exact .inr (.link u hi)
  | stored pa n v hi => exact .inr (.stored pa n v hi)
  | returned u hi _ _ => exact .inr (.returned u hi)
  | wroteCtl n ra hi hu => exact .inr (.wroteCtl n ra hi hu)
  | hostBreak h hi => exact .inr (.hostBreak h hi)

theorem decodeRegisterForm_unimplemented {w i} (h : decodeRegisterForm w = .unimplemented i) : i.isUnimplemented
    = true := by
  unfold decodeRegisterForm at h
  split at h <;> first | (cases h; rfl) | cases h

/-- The unimplemented words are those of the three slots. -/
theorem decode_unimplemented {w i} (h : decode w = .unimplemented i) : i.isUnimplemented = true := by
  unfold decode at h
  split at h <;> first | (cases h; rfl) | cases h | exact decodeRegisterForm_unimplemented h

end Sys2Proof.Machine
end

