-- ==== Sys2Proof/Laws/Environment.lean ====
section
/-! SUPPORT. What core reset, the moves between two steps and the host's runs leave in the state. -/

namespace Sys2Proof.Machine

/-! ### coreReset -/

@[simp] theorem coreReset_x (s : State) (tlb : List TlbEntry) : (s.coreReset tlb).x = Vector.replicate 32 0#32 := rfl

@[simp] theorem coreReset_pc (s : State) (tlb : List TlbEntry) : (s.coreReset tlb).pc = s.cfg.resetAddr := rfl

@[simp] theorem coreReset_status (s : State) (tlb : List TlbEntry) : (s.coreReset tlb).status = 0#32 := rfl

@[simp] theorem coreReset_estatus (s : State) (tlb : List TlbEntry) : (s.coreReset tlb).estatus = 0#32 := rfl

@[simp] theorem coreReset_bstatus (s : State) (tlb : List TlbEntry) : (s.coreReset tlb).bstatus = 0#32 := rfl

@[simp] theorem coreReset_ienable (s : State) (tlb : List TlbEntry) : (s.coreReset tlb).ienable = 0#32 := rfl

@[simp] theorem coreReset_cpuid (s : State) (tlb : List TlbEntry) : (s.coreReset tlb).cpuid = 0#32 := rfl

@[simp] theorem coreReset_ctl6 (s : State) (tlb : List TlbEntry) : (s.coreReset tlb).ctl6 = 0#32 := rfl

@[simp] theorem coreReset_exception (s : State) (tlb : List TlbEntry) : (s.coreReset tlb).exception = 0#32 := rfl

@[simp] theorem coreReset_pteaddr (s : State) (tlb : List TlbEntry) : (s.coreReset tlb).pteaddr = 0#32 := rfl

@[simp] theorem coreReset_tlbacc (s : State) (tlb : List TlbEntry) : (s.coreReset tlb).tlbacc = 0#32 := rfl

@[simp] theorem coreReset_tlbmisc (s : State) (tlb : List TlbEntry) : (s.coreReset tlb).tlbmisc = 0#32 := rfl

@[simp] theorem coreReset_ctl11 (s : State) (tlb : List TlbEntry) : (s.coreReset tlb).ctl11 = 0#32 := rfl

@[simp] theorem coreReset_badaddr (s : State) (tlb : List TlbEntry) : (s.coreReset tlb).badaddr = 0#32 := rfl

@[simp] theorem coreReset_configReg (s : State) (tlb : List TlbEntry) : (s.coreReset tlb).configReg = 0#32 := rfl

@[simp] theorem coreReset_ctlHigh (s : State) (tlb : List TlbEntry) : (s.coreReset tlb).ctlHigh = Vector.replicate 18 0#32 := rfl

@[simp] theorem coreReset_cfg (s : State) (tlb : List TlbEntry) : (s.coreReset tlb).cfg = s.cfg := rfl

@[simp] theorem coreReset_tlb (s : State) (tlb : List TlbEntry) : (s.coreReset tlb).tlb = tlb := rfl

@[simp] theorem coreReset_lines (s : State) (tlb : List TlbEntry) : (s.coreReset tlb).lines = 0#32 := rfl

@[simp] theorem coreReset_mem (s : State) (tlb : List TlbEntry) : (s.coreReset tlb).mem = s.mem := rfl

@[simp] theorem coreReset_breakpoints (s : State) (tlb : List TlbEntry) : (s.coreReset tlb).breakpoints = s.breakpoints := rfl

@[simp] theorem coreReset_stopFlag (s : State) (tlb : List TlbEntry) : (s.coreReset tlb).stopFlag = s.stopFlag := rfl

@[simp] theorem coreReset_run (s : State) (tlb : List TlbEntry) : (s.coreReset tlb).run = .notStarted := rfl

@[simp] theorem coreReset_blockBoundary (s : State) (tlb : List TlbEntry) : (s.coreReset tlb).blockBoundary = true := rfl

@[simp] theorem coreReset_blockCount (s : State) (tlb : List TlbEntry) : (s.coreReset tlb).blockCount = 0 := rfl

@[simp] theorem coreReset_draws (s : State) (tlb : List TlbEntry) : (s.coreReset tlb).draws = s.draws := rfl

/-! ### Live moves -/

/-- A live move changes `lines`, memory or the stop flag and nothing else. -/
theorem applyLive_eq (m : LiveMove) (s : State) :
    ∃ l mem f, applyLive m s = { s with lines := l, mem := mem, stopFlag := f } := by
  cases m <;> exact ⟨_, _, _, rfl⟩

/-- So do any number of them. -/
theorem applyLives_eq (ms : List LiveMove) (s : State) :
    ∃ l mem f, applyLives ms s = { s with lines := l, mem := mem, stopFlag := f } := by
  induction ms generalizing s with
  | nil => exact ⟨_, _, _, rfl⟩
  | cons m ms ih =>
    obtain ⟨l, mem, f, e⟩ := applyLive_eq m s
    obtain ⟨l', mem', f', e'⟩ := ih (applyLive m s)
    exact ⟨l', mem', f', e'.trans (by rw [e])⟩

theorem applyLive_wf {s : State} (h : s.mem.wf = true) (m : LiveMove) : (applyLive m s).mem.wf = true := by
  cases m with
  | deviceWrite pa b => exact Memory.wf_write h _ b pa.isLt
  | setLine n level => exact h
  | raiseStop => exact h

theorem applyLives_wf {s : State} (h : s.mem.wf = true) (ms : List LiveMove) : (applyLives ms s).mem.wf = true := by
  induction ms generalizing s with
  | nil => exact h
  | cons m ms ih => exact ih (applyLive_wf h m)

@[simp] theorem applyLives_x (ms : List LiveMove) (s : State) : (applyLives ms s).x = s.x := by
  obtain ⟨_, _, _, e⟩ := applyLives_eq ms s; rw [e]

@[simp] theorem applyLives_pc (ms : List LiveMove) (s : State) : (applyLives ms s).pc = s.pc := by
  obtain ⟨_, _, _, e⟩ := applyLives_eq ms s; rw [e]

@[simp] theorem applyLives_status (ms : List LiveMove) (s : State) : (applyLives ms s).status = s.status := by
  obtain ⟨_, _, _, e⟩ := applyLives_eq ms s; rw [e]

@[simp] theorem applyLives_estatus (ms : List LiveMove) (s : State) : (applyLives ms s).estatus = s.estatus := by
  obtain ⟨_, _, _, e⟩ := applyLives_eq ms s; rw [e]

@[simp] theorem applyLives_bstatus (ms : List LiveMove) (s : State) : (applyLives ms s).bstatus = s.bstatus := by
  obtain ⟨_, _, _, e⟩ := applyLives_eq ms s; rw [e]

@[simp] theorem applyLives_ienable (ms : List LiveMove) (s : State) : (applyLives ms s).ienable = s.ienable := by
  obtain ⟨_, _, _, e⟩ := applyLives_eq ms s; rw [e]

@[simp] theorem applyLives_cpuid (ms : List LiveMove) (s : State) : (applyLives ms s).cpuid = s.cpuid := by
  obtain ⟨_, _, _, e⟩ := applyLives_eq ms s; rw [e]

@[simp] theorem applyLives_ctl6 (ms : List LiveMove) (s : State) : (applyLives ms s).ctl6 = s.ctl6 := by
  obtain ⟨_, _, _, e⟩ := applyLives_eq ms s; rw [e]

@[simp] theorem applyLives_exception (ms : List LiveMove) (s : State) : (applyLives ms s).exception = s.exception := by
  obtain ⟨_, _, _, e⟩ := applyLives_eq ms s; rw [e]

@[simp] theorem applyLives_pteaddr (ms : List LiveMove) (s : State) : (applyLives ms s).pteaddr = s.pteaddr := by
  obtain ⟨_, _, _, e⟩ := applyLives_eq ms s; rw [e]

@[simp] theorem applyLives_tlbacc (ms : List LiveMove) (s : State) : (applyLives ms s).tlbacc = s.tlbacc := by
  obtain ⟨_, _, _, e⟩ := applyLives_eq ms s; rw [e]

@[simp] theorem applyLives_tlbmisc (ms : List LiveMove) (s : State) : (applyLives ms s).tlbmisc = s.tlbmisc := by
  obtain ⟨_, _, _, e⟩ := applyLives_eq ms s; rw [e]

@[simp] theorem applyLives_ctl11 (ms : List LiveMove) (s : State) : (applyLives ms s).ctl11 = s.ctl11 := by
  obtain ⟨_, _, _, e⟩ := applyLives_eq ms s; rw [e]

@[simp] theorem applyLives_badaddr (ms : List LiveMove) (s : State) : (applyLives ms s).badaddr = s.badaddr := by
  obtain ⟨_, _, _, e⟩ := applyLives_eq ms s; rw [e]

@[simp] theorem applyLives_configReg (ms : List LiveMove) (s : State) : (applyLives ms s).configReg = s.configReg := by
  obtain ⟨_, _, _, e⟩ := applyLives_eq ms s; rw [e]

@[simp] theorem applyLives_ctlHigh (ms : List LiveMove) (s : State) : (applyLives ms s).ctlHigh = s.ctlHigh := by
  obtain ⟨_, _, _, e⟩ := applyLives_eq ms s; rw [e]

@[simp] theorem applyLives_cfg (ms : List LiveMove) (s : State) : (applyLives ms s).cfg = s.cfg := by
  obtain ⟨_, _, _, e⟩ := applyLives_eq ms s; rw [e]

@[simp] theorem applyLives_tlb (ms : List LiveMove) (s : State) : (applyLives ms s).tlb = s.tlb := by
  obtain ⟨_, _, _, e⟩ := applyLives_eq ms s; rw [e]

@[simp] theorem applyLives_breakpoints (ms : List LiveMove) (s : State) : (applyLives ms s).breakpoints = s.breakpoints := by
  obtain ⟨_, _, _, e⟩ := applyLives_eq ms s; rw [e]

@[simp] theorem applyLives_run (ms : List LiveMove) (s : State) : (applyLives ms s).run = s.run := by
  obtain ⟨_, _, _, e⟩ := applyLives_eq ms s; rw [e]

@[simp] theorem applyLives_blockBoundary (ms : List LiveMove) (s : State) : (applyLives ms s).blockBoundary = s.blockBoundary := by
  obtain ⟨_, _, _, e⟩ := applyLives_eq ms s; rw [e]

@[simp] theorem applyLives_blockCount (ms : List LiveMove) (s : State) : (applyLives ms s).blockCount = s.blockCount := by
  obtain ⟨_, _, _, e⟩ := applyLives_eq ms s; rw [e]

@[simp] theorem applyLives_draws (ms : List LiveMove) (s : State) : (applyLives ms s).draws = s.draws := by
  obtain ⟨_, _, _, e⟩ := applyLives_eq ms s; rw [e]

@[simp] theorem applyLives_isBlockBoundary (ms : List LiveMove) (s : State) :
    (applyLives ms s).isBlockBoundary = s.isBlockBoundary := by
  simp [State.isBlockBoundary, State.stopped]

/-! ### Host moves -/

/-- A host move is made exactly where the core is stopped, and then it has its effect. -/
theorem applyHost_eq_some (m : HostMove) (s t : State) :
    applyHost m s = some t ↔ s.stopped = true ∧ t = hostEffect m s := by
  unfold applyHost
  cases s.stopped
  · exact ⟨nofun, fun h => nomatch h.1⟩
  · exact ⟨fun h => ⟨rfl, (Option.some.inj h).symm⟩, fun h => congrArg some h.2.symm⟩

/-! ### Runs -/

theorem stopped_iff (s : State) : s.stopped = true ↔ s.run ≠ .running := by simp [State.stopped]

/-- The first boundary of a run is a block boundary (48_engine_step.md R295). -/
theorem isBlockBoundary_of_stopped {s : State} (h : s.stopped = true) : s.isBlockBoundary = true := by
  simp [State.isBlockBoundary, h]

/-- How a run that has made one step can have ended: the step came back to the host, or the run went on with `next`. -/
theorem afterStep_returned {r : Result} {next : State → RunEnd} {why : ReturnReason} {t : State}
    (h : afterStep r next = .returned why t) :
    (r = .next t ∧ t.run = .returned why) ∨ ∃ u, r = .next u ∧ (∀ w, u.run ≠ .returned w) ∧ next u = .returned why t := by
  unfold afterStep at h
  split at h
  · next u =>
    split at h
    · next w hw => cases h; exact .inl ⟨rfl, hw⟩
    · next hw => exact .inr ⟨u, rfl, by simp [hw], h⟩
    · next hw => exact .inr ⟨u, rfl, by simp [hw], h⟩
  · cases h
  · cases h

/-- A run goes on after a step that did not come back to the host. -/
theorem afterStep_running {r : Result} {next : State → RunEnd} {u : State} (h : r = .next u) (hr : u.run = .running) :
    afterStep r next = next u := by
  subst h; unfold afterStep; simp only [hr]

/-- `n + 1` steps into a run are one step that goes on, and `n` more. -/
theorem stepsOfRun_succ (n : Nat) (moves : List (List LiveMove)) (s u : State) :
    stepsOfRun (n + 1) moves s = some u ↔
      ∃ v, step (applyLives (moves.headD []) s) = .next v ∧ v.run = .running ∧ stepsOfRun n moves.tail v = some u := by
  rw [stepsOfRun]
  cases step (applyLives (moves.headD []) s) with
  | next v =>
    cases hv : v.run with
    | running =>
      exact ⟨fun h => ⟨v, rfl, hv, by simpa [hv] using h⟩, fun ⟨w, h, _, hw⟩ => by cases h; simpa [hv] using hw⟩
    | returned w =>
      exact ⟨fun h => by simp [hv] at h, fun ⟨w, h, hw, _⟩ => by cases h; rw [hv] at hw; cases hw⟩
    | notStarted =>
      exact ⟨fun h => by simp [hv] at h, fun ⟨w, h, hw, _⟩ => by cases h; rw [hv] at hw; cases hw⟩
  | fault f => exact ⟨nofun, fun ⟨_, h, _⟩ => nomatch h⟩
  | refused r => exact ⟨nofun, fun ⟨_, h, _⟩ => nomatch h⟩

end Sys2Proof.Machine
end

