-- ==== Sys2Proof/Laws/PerInstr.lean ====
section
/-! SUPPORT. The encoder against spec/opcode_table.json, row by row. -/

namespace Sys2Proof.Laws

/-- A row of spec/opcode_table.json: `match` for the bits of `OP` and, in the register form, of `OPX`. -/
inductive Row where
  | primary (op : BitVec 6)
  | registerForm (opx : BitVec 6)
deriving DecidableEq, Repr

/-- Whether a word is in a row: `w & mask = match`, where `mask` is 0x3F or 0x1F83F. -/
def Row.holds (r : Row) (w : Word) : Bool :=
  match r with
  | .primary op => fieldOp w == op
  | .registerForm opx => fieldOp w == 0x3A#6 && fieldOpx w == opx

/-- The row of each instruction, copied from spec/opcode_table.json. -/
def rowOf (i : Instr) : Row :=
  match i with
  | .add _ _ _ => .registerForm 0x31#6
  | .addi _ _ _ => .primary 0x04#6
  | .sub _ _ _ => .registerForm 0x39#6
  | .mul _ _ _ => .registerForm 0x27#6
  | .muli _ _ _ => .primary 0x24#6
  | .mulxss _ _ _ => .registerForm 0x1F#6
  | .mulxsu _ _ _ => .registerForm 0x17#6
  | .mulxuu _ _ _ => .registerForm 0x07#6
  | .div _ _ _ => .registerForm 0x25#6
  | .divu _ _ _ => .registerForm 0x24#6
  | .and _ _ _ => .registerForm 0x0E#6
  | .andi _ _ _ => .primary 0x0C#6
  | .andhi _ _ _ => .primary 0x2C#6
  | .or _ _ _ => .registerForm 0x16#6
  | .ori _ _ _ => .primary 0x14#6
  | .orhi _ _ _ => .primary 0x34#6
  | .xor _ _ _ => .registerForm 0x1E#6
  | .xori _ _ _ => .primary 0x1C#6
  | .xorhi _ _ _ => .primary 0x3C#6
  | .nor _ _ _ => .registerForm 0x06#6
  | .cmpeq _ _ _ => .registerForm 0x20#6
  | .cmpne _ _ _ => .registerForm 0x18#6
  | .cmpge _ _ _ => .registerForm 0x08#6
  | .cmpgeu _ _ _ => .registerForm 0x28#6
  | .cmplt _ _ _ => .registerForm 0x10#6
  | .cmpltu _ _ _ => .registerForm 0x30#6
  | .cmpeqi _ _ _ => .primary 0x20#6
  | .cmpnei _ _ _ => .primary 0x18#6
  | .cmpgei _ _ _ => .primary 0x08#6
  | .cmpgeui _ _ _ => .primary 0x28#6
  | .cmplti _ _ _ => .primary 0x10#6
  | .cmpltui _ _ _ => .primary 0x30#6
  | .sll _ _ _ => .registerForm 0x13#6
  | .slli _ _ _ => .registerForm 0x12#6
  | .srl _ _ _ => .registerForm 0x1B#6
  | .srli _ _ _ => .registerForm 0x1A#6
  | .sra _ _ _ => .registerForm 0x3B#6
  | .srai _ _ _ => .registerForm 0x3A#6
  | .rol _ _ _ => .registerForm 0x03#6
  | .roli _ _ _ => .registerForm 0x02#6
  | .ror _ _ _ => .registerForm 0x0B#6
  | .ldb _ _ _ => .primary 0x07#6
  | .ldbu _ _ _ => .primary 0x03#6
  | .ldh _ _ _ => .primary 0x0F#6
  | .ldhu _ _ _ => .primary 0x0B#6
  | .ldw _ _ _ => .primary 0x17#6
  | .ldbio _ _ _ => .primary 0x27#6
  | .ldbuio _ _ _ => .primary 0x23#6
  | .ldhio _ _ _ => .primary 0x2F#6
  | .ldhuio _ _ _ => .primary 0x2B#6
  | .ldwio _ _ _ => .primary 0x37#6
  | .stb _ _ _ => .primary 0x05#6
  | .sth _ _ _ => .primary 0x0D#6
  | .stw _ _ _ => .primary 0x15#6
  | .stbio _ _ _ => .primary 0x25#6
  | .sthio _ _ _ => .primary 0x2D#6
  | .stwio _ _ _ => .primary 0x35#6
  | .br _ => .primary 0x06#6
  | .beq _ _ _ => .primary 0x26#6
  | .bne _ _ _ => .primary 0x1E#6
  | .bge _ _ _ => .primary 0x0E#6
  | .bgeu _ _ _ => .primary 0x2E#6
  | .blt _ _ _ => .primary 0x16#6
  | .bltu _ _ _ => .primary 0x36#6
  | .call _ => .primary 0x00#6
  | .jmpi _ => .primary 0x01#6
  | .callr _ => .registerForm 0x1D#6
  | .jmp _ => .registerForm 0x0D#6
  | .ret => .registerForm 0x05#6
  | .nextpc _ => .registerForm 0x1C#6
  | .trap _ => .registerForm 0x2D#6
  | .brk _ => .registerForm 0x34#6
  | .bret => .registerForm 0x09#6
  | .eret => .registerForm 0x01#6
  | .rdctl _ _ => .registerForm 0x26#6
  | .wrctl _ _ => .registerForm 0x2E#6
  | .sync => .registerForm 0x36#6
  | .flushd _ _ => .primary 0x3B#6
  | .flushda _ _ => .primary 0x1B#6
  | .flushi _ => .registerForm 0x0C#6
  | .flushp => .registerForm 0x04#6
  | .initd _ _ => .primary 0x33#6
  | .initda _ _ => .primary 0x13#6
  | .initi _ => .registerForm 0x29#6
  | .custom _ => .primary 0x32#6
  | .rdprs _ _ _ => .primary 0x38#6
  | .wrprs _ _ => .registerForm 0x14#6

/-- The word that the encoder gives an instruction is in the instruction's row. -/
def EncodesInRow.Statement (i : Instr) : Prop := (rowOf i).holds (encode i) = true

theorem holds_encodeI (op : BitVec 6) (a b : RegNum) (imm16 : BitVec 16) :
    (Row.primary op).holds (encodeI op a b imm16) = true := by simp [Row.holds]

theorem holds_encodeJ (op : BitVec 6) (imm26 : BitVec 26) : (Row.primary op).holds (encodeJ op imm26) = true := by
  simp [Row.holds]

theorem holds_encodeR (opx : BitVec 6) (a b c : RegNum) (imm5 : BitVec 5) :
    (Row.registerForm opx).holds (encodeR opx a b c imm5) = true := by simp [Row.holds]

theorem EncodesInRow.add (rc : RegNum) (ra : RegNum) (rb : RegNum) : EncodesInRow.Statement (.add rc ra rb) := holds_encodeR _ _ _ _ _

theorem EncodesInRow.addi (rb : RegNum) (ra : RegNum) (imm16 : BitVec 16) : EncodesInRow.Statement (.addi rb ra imm16) := holds_encodeI _ _ _ _

theorem EncodesInRow.sub (rc : RegNum) (ra : RegNum) (rb : RegNum) : EncodesInRow.Statement (.sub rc ra rb) := holds_encodeR _ _ _ _ _

theorem EncodesInRow.mul (rc : RegNum) (ra : RegNum) (rb : RegNum) : EncodesInRow.Statement (.mul rc ra rb) := holds_encodeR _ _ _ _ _

theorem EncodesInRow.muli (rb : RegNum) (ra : RegNum) (imm16 : BitVec 16) : EncodesInRow.Statement (.muli rb ra imm16) := holds_encodeI _ _ _ _

theorem EncodesInRow.mulxss (rc : RegNum) (ra : RegNum) (rb : RegNum) : EncodesInRow.Statement (.mulxss rc ra rb) := holds_encodeR _ _ _ _ _

theorem EncodesInRow.mulxsu (rc : RegNum) (ra : RegNum) (rb : RegNum) : EncodesInRow.Statement (.mulxsu rc ra rb) := holds_encodeR _ _ _ _ _

theorem EncodesInRow.mulxuu (rc : RegNum) (ra : RegNum) (rb : RegNum) : EncodesInRow.Statement (.mulxuu rc ra rb) := holds_encodeR _ _ _ _ _

theorem EncodesInRow.div (rc : RegNum) (ra : RegNum) (rb : RegNum) : EncodesInRow.Statement (.div rc ra rb) := holds_encodeR _ _ _ _ _

theorem EncodesInRow.divu (rc : RegNum) (ra : RegNum) (rb : RegNum) : EncodesInRow.Statement (.divu rc ra rb) := holds_encodeR _ _ _ _ _

theorem EncodesInRow.and (rc : RegNum) (ra : RegNum) (rb : RegNum) : EncodesInRow.Statement (.and rc ra rb) := holds_encodeR _ _ _ _ _

theorem EncodesInRow.andi (rb : RegNum) (ra : RegNum) (imm16 : BitVec 16) : EncodesInRow.Statement (.andi rb ra imm16) := holds_encodeI _ _ _ _

theorem EncodesInRow.andhi (rb : RegNum) (ra : RegNum) (imm16 : BitVec 16) : EncodesInRow.Statement (.andhi rb ra imm16) := holds_encodeI _ _ _ _

theorem EncodesInRow.or (rc : RegNum) (ra : RegNum) (rb : RegNum) : EncodesInRow.Statement (.or rc ra rb) := holds_encodeR _ _ _ _ _

theorem EncodesInRow.ori (rb : RegNum) (ra : RegNum) (imm16 : BitVec 16) : EncodesInRow.Statement (.ori rb ra imm16) := holds_encodeI _ _ _ _

theorem EncodesInRow.orhi (rb : RegNum) (ra : RegNum) (imm16 : BitVec 16) : EncodesInRow.Statement (.orhi rb ra imm16) := holds_encodeI _ _ _ _

theorem EncodesInRow.xor (rc : RegNum) (ra : RegNum) (rb : RegNum) : EncodesInRow.Statement (.xor rc ra rb) := holds_encodeR _ _ _ _ _

theorem EncodesInRow.xori (rb : RegNum) (ra : RegNum) (imm16 : BitVec 16) : EncodesInRow.Statement (.xori rb ra imm16) := holds_encodeI _ _ _ _

theorem EncodesInRow.xorhi (rb : RegNum) (ra : RegNum) (imm16 : BitVec 16) : EncodesInRow.Statement (.xorhi rb ra imm16) := holds_encodeI _ _ _ _

theorem EncodesInRow.nor (rc : RegNum) (ra : RegNum) (rb : RegNum) : EncodesInRow.Statement (.nor rc ra rb) := holds_encodeR _ _ _ _ _

theorem EncodesInRow.cmpeq (rc : RegNum) (ra : RegNum) (rb : RegNum) : EncodesInRow.Statement (.cmpeq rc ra rb) := holds_encodeR _ _ _ _ _

theorem EncodesInRow.cmpne (rc : RegNum) (ra : RegNum) (rb : RegNum) : EncodesInRow.Statement (.cmpne rc ra rb) := holds_encodeR _ _ _ _ _

theorem EncodesInRow.cmpge (rc : RegNum) (ra : RegNum) (rb : RegNum) : EncodesInRow.Statement (.cmpge rc ra rb) := holds_encodeR _ _ _ _ _

theorem EncodesInRow.cmpgeu (rc : RegNum) (ra : RegNum) (rb : RegNum) : EncodesInRow.Statement (.cmpgeu rc ra rb) := holds_encodeR _ _ _ _ _

theorem EncodesInRow.cmplt (rc : RegNum) (ra : RegNum) (rb : RegNum) : EncodesInRow.Statement (.cmplt rc ra rb) := holds_encodeR _ _ _ _ _

theorem EncodesInRow.cmpltu (rc : RegNum) (ra : RegNum) (rb : RegNum) : EncodesInRow.Statement (.cmpltu rc ra rb) := holds_encodeR _ _ _ _ _

theorem EncodesInRow.cmpeqi (rb : RegNum) (ra : RegNum) (imm16 : BitVec 16) : EncodesInRow.Statement (.cmpeqi rb ra imm16) := holds_encodeI _ _ _ _

theorem EncodesInRow.cmpnei (rb : RegNum) (ra : RegNum) (imm16 : BitVec 16) : EncodesInRow.Statement (.cmpnei rb ra imm16) := holds_encodeI _ _ _ _

theorem EncodesInRow.cmpgei (rb : RegNum) (ra : RegNum) (imm16 : BitVec 16) : EncodesInRow.Statement (.cmpgei rb ra imm16) := holds_encodeI _ _ _ _

theorem EncodesInRow.cmpgeui (rb : RegNum) (ra : RegNum) (imm16 : BitVec 16) : EncodesInRow.Statement (.cmpgeui rb ra imm16) := holds_encodeI _ _ _ _

theorem EncodesInRow.cmplti (rb : RegNum) (ra : RegNum) (imm16 : BitVec 16) : EncodesInRow.Statement (.cmplti rb ra imm16) := holds_encodeI _ _ _ _

theorem EncodesInRow.cmpltui (rb : RegNum) (ra : RegNum) (imm16 : BitVec 16) : EncodesInRow.Statement (.cmpltui rb ra imm16) := holds_encodeI _ _ _ _

theorem EncodesInRow.sll (rc : RegNum) (ra : RegNum) (rb : RegNum) : EncodesInRow.Statement (.sll rc ra rb) := holds_encodeR _ _ _ _ _

theorem EncodesInRow.slli (rc : RegNum) (ra : RegNum) (imm5 : BitVec 5) : EncodesInRow.Statement (.slli rc ra imm5) := holds_encodeR _ _ _ _ _

theorem EncodesInRow.srl (rc : RegNum) (ra : RegNum) (rb : RegNum) : EncodesInRow.Statement (.srl rc ra rb) := holds_encodeR _ _ _ _ _

theorem EncodesInRow.srli (rc : RegNum) (ra : RegNum) (imm5 : BitVec 5) : EncodesInRow.Statement (.srli rc ra imm5) := holds_encodeR _ _ _ _ _

theorem EncodesInRow.sra (rc : RegNum) (ra : RegNum) (rb : RegNum) : EncodesInRow.Statement (.sra rc ra rb) := holds_encodeR _ _ _ _ _

theorem EncodesInRow.srai (rc : RegNum) (ra : RegNum) (imm5 : BitVec 5) : EncodesInRow.Statement (.srai rc ra imm5) := holds_encodeR _ _ _ _ _

theorem EncodesInRow.rol (rc : RegNum) (ra : RegNum) (rb : RegNum) : EncodesInRow.Statement (.rol rc ra rb) := holds_encodeR _ _ _ _ _

theorem EncodesInRow.roli (rc : RegNum) (ra : RegNum) (imm5 : BitVec 5) : EncodesInRow.Statement (.roli rc ra imm5) := holds_encodeR _ _ _ _ _

theorem EncodesInRow.ror (rc : RegNum) (ra : RegNum) (rb : RegNum) : EncodesInRow.Statement (.ror rc ra rb) := holds_encodeR _ _ _ _ _

theorem EncodesInRow.ldb (rb : RegNum) (ra : RegNum) (imm16 : BitVec 16) : EncodesInRow.Statement (.ldb rb ra imm16) := holds_encodeI _ _ _ _

theorem EncodesInRow.ldbu (rb : RegNum) (ra : RegNum) (imm16 : BitVec 16) : EncodesInRow.Statement (.ldbu rb ra imm16) := holds_encodeI _ _ _ _

theorem EncodesInRow.ldh (rb : RegNum) (ra : RegNum) (imm16 : BitVec 16) : EncodesInRow.Statement (.ldh rb ra imm16) := holds_encodeI _ _ _ _

theorem EncodesInRow.ldhu (rb : RegNum) (ra : RegNum) (imm16 : BitVec 16) : EncodesInRow.Statement (.ldhu rb ra imm16) := holds_encodeI _ _ _ _

theorem EncodesInRow.ldw (rb : RegNum) (ra : RegNum) (imm16 : BitVec 16) : EncodesInRow.Statement (.ldw rb ra imm16) := holds_encodeI _ _ _ _

theorem EncodesInRow.ldbio (rb : RegNum) (ra : RegNum) (imm16 : BitVec 16) : EncodesInRow.Statement (.ldbio rb ra imm16) := holds_encodeI _ _ _ _

theorem EncodesInRow.ldbuio (rb : RegNum) (ra : RegNum) (imm16 : BitVec 16) : EncodesInRow.Statement (.ldbuio rb ra imm16) := holds_encodeI _ _ _ _

theorem EncodesInRow.ldhio (rb : RegNum) (ra : RegNum) (imm16 : BitVec 16) : EncodesInRow.Statement (.ldhio rb ra imm16) := holds_encodeI _ _ _ _

theorem EncodesInRow.ldhuio (rb : RegNum) (ra : RegNum) (imm16 : BitVec 16) : EncodesInRow.Statement (.ldhuio rb ra imm16) := holds_encodeI _ _ _ _

theorem EncodesInRow.ldwio (rb : RegNum) (ra : RegNum) (imm16 : BitVec 16) : EncodesInRow.Statement (.ldwio rb ra imm16) := holds_encodeI _ _ _ _

theorem EncodesInRow.stb (rb : RegNum) (ra : RegNum) (imm16 : BitVec 16) : EncodesInRow.Statement (.stb rb ra imm16) := holds_encodeI _ _ _ _

theorem EncodesInRow.sth (rb : RegNum) (ra : RegNum) (imm16 : BitVec 16) : EncodesInRow.Statement (.sth rb ra imm16) := holds_encodeI _ _ _ _

theorem EncodesInRow.stw (rb : RegNum) (ra : RegNum) (imm16 : BitVec 16) : EncodesInRow.Statement (.stw rb ra imm16) := holds_encodeI _ _ _ _

theorem EncodesInRow.stbio (rb : RegNum) (ra : RegNum) (imm16 : BitVec 16) : EncodesInRow.Statement (.stbio rb ra imm16) := holds_encodeI _ _ _ _

theorem EncodesInRow.sthio (rb : RegNum) (ra : RegNum) (imm16 : BitVec 16) : EncodesInRow.Statement (.sthio rb ra imm16) := holds_encodeI _ _ _ _

theorem EncodesInRow.stwio (rb : RegNum) (ra : RegNum) (imm16 : BitVec 16) : EncodesInRow.Statement (.stwio rb ra imm16) := holds_encodeI _ _ _ _

theorem EncodesInRow.br (imm16 : BitVec 16) : EncodesInRow.Statement (.br imm16) := holds_encodeI _ _ _ _

theorem EncodesInRow.beq (ra : RegNum) (rb : RegNum) (imm16 : BitVec 16) : EncodesInRow.Statement (.beq ra rb imm16) := holds_encodeI _ _ _ _

theorem EncodesInRow.bne (ra : RegNum) (rb : RegNum) (imm16 : BitVec 16) : EncodesInRow.Statement (.bne ra rb imm16) := holds_encodeI _ _ _ _

theorem EncodesInRow.bge (ra : RegNum) (rb : RegNum) (imm16 : BitVec 16) : EncodesInRow.Statement (.bge ra rb imm16) := holds_encodeI _ _ _ _

theorem EncodesInRow.bgeu (ra : RegNum) (rb : RegNum) (imm16 : BitVec 16) : EncodesInRow.Statement (.bgeu ra rb imm16) := holds_encodeI _ _ _ _

theorem EncodesInRow.blt (ra : RegNum) (rb : RegNum) (imm16 : BitVec 16) : EncodesInRow.Statement (.blt ra rb imm16) := holds_encodeI _ _ _ _

theorem EncodesInRow.bltu (ra : RegNum) (rb : RegNum) (imm16 : BitVec 16) : EncodesInRow.Statement (.bltu ra rb imm16) := holds_encodeI _ _ _ _

theorem EncodesInRow.call (imm26 : BitVec 26) : EncodesInRow.Statement (.call imm26) := holds_encodeJ _ _

theorem EncodesInRow.jmpi (imm26 : BitVec 26) : EncodesInRow.Statement (.jmpi imm26) := holds_encodeJ _ _

theorem EncodesInRow.callr (ra : RegNum) : EncodesInRow.Statement (.callr ra) := holds_encodeR _ _ _ _ _

theorem EncodesInRow.jmp (ra : RegNum) : EncodesInRow.Statement (.jmp ra) := holds_encodeR _ _ _ _ _

theorem EncodesInRow.ret : EncodesInRow.Statement .ret := holds_encodeR _ _ _ _ _

theorem EncodesInRow.nextpc (rc : RegNum) : EncodesInRow.Statement (.nextpc rc) := holds_encodeR _ _ _ _ _

theorem EncodesInRow.trap (imm5 : BitVec 5) : EncodesInRow.Statement (.trap imm5) := holds_encodeR _ _ _ _ _

theorem EncodesInRow.brk (imm5 : BitVec 5) : EncodesInRow.Statement (.brk imm5) := holds_encodeR _ _ _ _ _

theorem EncodesInRow.bret : EncodesInRow.Statement .bret := holds_encodeR _ _ _ _ _

theorem EncodesInRow.eret : EncodesInRow.Statement .eret := holds_encodeR _ _ _ _ _

theorem EncodesInRow.rdctl (rc : RegNum) (n : RegNum) : EncodesInRow.Statement (.rdctl rc n) := holds_encodeR _ _ _ _ _

theorem EncodesInRow.wrctl (n : RegNum) (ra : RegNum) : EncodesInRow.Statement (.wrctl n ra) := holds_encodeR _ _ _ _ _

theorem EncodesInRow.sync : EncodesInRow.Statement .sync := holds_encodeR _ _ _ _ _

theorem EncodesInRow.flushd (ra : RegNum) (imm16 : BitVec 16) : EncodesInRow.Statement (.flushd ra imm16) := holds_encodeI _ _ _ _

theorem EncodesInRow.flushda (ra : RegNum) (imm16 : BitVec 16) : EncodesInRow.Statement (.flushda ra imm16) := holds_encodeI _ _ _ _

theorem EncodesInRow.flushi (ra : RegNum) : EncodesInRow.Statement (.flushi ra) := holds_encodeR _ _ _ _ _

theorem EncodesInRow.flushp : EncodesInRow.Statement .flushp := holds_encodeR _ _ _ _ _

theorem EncodesInRow.initd (ra : RegNum) (imm16 : BitVec 16) : EncodesInRow.Statement (.initd ra imm16) := holds_encodeI _ _ _ _

theorem EncodesInRow.initda (ra : RegNum) (imm16 : BitVec 16) : EncodesInRow.Statement (.initda ra imm16) := holds_encodeI _ _ _ _

theorem EncodesInRow.initi (ra : RegNum) : EncodesInRow.Statement (.initi ra) := holds_encodeR _ _ _ _ _

theorem EncodesInRow.custom (payload : BitVec 26) : EncodesInRow.Statement (.custom payload) := holds_encodeJ _ _

theorem EncodesInRow.rdprs (rb : RegNum) (ra : RegNum) (imm16 : BitVec 16) : EncodesInRow.Statement (.rdprs rb ra imm16) := holds_encodeI _ _ _ _

theorem EncodesInRow.wrprs (rc : RegNum) (ra : RegNum) : EncodesInRow.Statement (.wrprs rc ra) := holds_encodeR _ _ _ _ _

end Sys2Proof.Laws
end

