-- ==== Sys2Proof/Laws/Results.lean ====
section
/-! SUPPORT. What the results, immediates, targets and shift amounts are as numbers, and how a
rule of Safety.lean follows from them. -/

namespace Sys2Proof.Machine

/-! ### Values -/

/-- Addition modulo 2^32. -/
theorem add_eq_ofNat (a b : Word) : a + b = BitVec.ofNat 32 (a.toNat + b.toNat) := by
  apply BitVec.eq_of_toNat_eq; simp

theorem add_eq_ofInt (a b : Word) : a + b = BitVec.ofInt 32 (a.toInt + b.toInt) := by
  apply BitVec.eq_of_toInt_eq; simp

theorem sub_eq_ofInt (a b : Word) : a - b = BitVec.ofInt 32 (a.toInt - b.toInt) := by
  apply BitVec.eq_of_toInt_eq; simp

theorem mul_eq_ofInt (a b : Word) : a * b = BitVec.ofInt 32 (a.toInt * b.toInt) := by
  apply BitVec.eq_of_toInt_eq; simp

theorem immSigned_toInt (i : BitVec 16) : (immSigned i).toInt = i.toInt := by
  unfold immSigned; exact BitVec.toInt_signExtend_of_le (by omega)

theorem immUnsigned_toNat (i : BitVec 16) : (immUnsigned i).toNat = i.toNat := by
  unfold immUnsigned; have := i.isLt; simp; omega

/-- The high word of a product is the floor of the product over 2^32. -/
theorem highWord_eq (p : Int) : highWord p = BitVec.ofInt 32 (p / 2^32) := by
  unfold highWord
  apply BitVec.eq_of_toNat_eq
  simp only [BitVec.extractLsb'_toNat, BitVec.toNat_ofInt, Nat.shiftRight_eq_div_pow]
  omega

theorem immUnsigned_bit (b : BitVec 16) (k : Nat) (hk : k < 32) : (immUnsigned b).getLsbD k = lowImmediateBit b k := by
  unfold immUnsigned lowImmediateBit
  rw [BitVec.getLsbD_setWidth]
  by_cases h : k < 16
  · simp [h, hk]
  · simp [h, BitVec.getLsbD_of_ge b k (by omega)]

theorem immHigh_bit (b : BitVec 16) (k : Nat) (hk : k < 32) : (immHigh b).getLsbD k = highImmediateBit b k := by
  show BitVec.getLsbD (w := 16 + 16) (b ++ 0#16) k = _
  unfold highImmediateBit
  rw [BitVec.getLsbD_append]
  by_cases h : k < 16
  · have : ¬ 16 ≤ k := by omega
    simp [h, this]
  · have : 16 ≤ k := by omega
    simp [h, this]

theorem amountOfReg_eq (v : Word) : amountOfReg v = v.toNat % 32 := by
  unfold amountOfReg; simp [BitVec.extractLsb'_toNat]

theorem shiftLeft_eq (a : Word) (n : Nat) : shiftLeft a n = BitVec.ofNat 32 (a.toNat * 2^n) := by
  apply BitVec.eq_of_toNat_eq; simp [shiftLeft, Nat.shiftLeft_eq]

theorem shiftRight_eq (a : Word) (n : Nat) : shiftRight a n = BitVec.ofNat 32 (a.toNat / 2^n) := by
  apply BitVec.eq_of_toNat_eq
  simp only [shiftRight, BitVec.toNat_ushiftRight, Nat.shiftRight_eq_div_pow, BitVec.toNat_ofNat]
  rw [Nat.mod_eq_of_lt]
  exact lt_of_le_of_lt (Nat.div_le_self _ _) a.isLt

theorem shiftRightArith_eq (a : Word) (n : Nat) : shiftRightArith a n = BitVec.ofInt 32 (a.toInt / 2^n) := by
  unfold shiftRightArith BitVec.sshiftRight
  rw [Int.shiftRight_eq_div_pow]; norm_cast

theorem rotateLeft_rotated (a : Word) (n : Nat) (hn : n < 32) : rotated a (32 - n) (rotateLeft a n) := by
  intro k hk
  unfold rotateLeft
  by_cases h0 : n = 0
  · subst h0; simp; rw [Nat.mod_eq_of_lt hk]
  · rw [if_neg h0]
    by_cases h : k < n
    · have e : (k + (32 - n)) % 32 = 32 - n + k := by omega
      simp [hk, h, e]
    · have e : (k + (32 - n)) % 32 = k - n := by omega
      have e2 : ¬ 32 - n + k < 32 := by omega
      simp [hk, h, e, BitVec.getLsbD_of_ge a (32 - n + k) (by omega)]; rfl

theorem rotateRight_rotated (a : Word) (n : Nat) (hn : n < 32) : rotated a n (rotateRight a n) := by
  intro k hk
  unfold rotateRight
  by_cases h0 : n = 0
  · subst h0; simp; rw [Nat.mod_eq_of_lt hk]
  · rw [if_neg h0]
    by_cases h : k < 32 - n
    · have e : (k + n) % 32 = n + k := by omega
      simp [hk, h, e]
    · have e : (k + n) % 32 = k - (32 - n) := by omega
      simp [hk, h, e, BitVec.getLsbD_of_ge a (n + k) (by omega)]; rfl

theorem extract_setWidth_byte (b : Byte) : (b.setWidth 32 : Word).extractLsb' 0 8 = b := by
  apply BitVec.eq_of_toNat_eq
  have := b.isLt
  simp [BitVec.extractLsb'_toNat]; omega

theorem extract_setWidth_half (b : BitVec 16) : (b.setWidth 32 : Word).extractLsb' 0 16 = b := by
  apply BitVec.eq_of_toNat_eq
  have := b.isLt
  simp [BitVec.extractLsb'_toNat]; omega

/-! ### Addresses and targets -/

theorem effectiveAddress_eq (s : State) (ra) (imm16 : BitVec 16) : s.effectiveAddress ra imm16 =
    BitVec.ofInt 32 ((s.readReg ra).toNat + imm16.toInt) := by
  unfold State.effectiveAddress
  apply BitVec.eq_of_toInt_eq
  rw [BitVec.toInt_add, BitVec.toInt_ofInt, immSigned_toInt, BitVec.toInt_eq_toNat_bmod]
  simp

/-- A branch offset is the immediate rounded down to a multiple of 4. -/
theorem immBranch_toInt (i : BitVec 16) : (immBranch i).toInt = i.toInt / 4 * 4 := by
  unfold immBranch
  rw [BitVec.toInt_signExtend_of_le (by omega)]
  have h : (i &&& 0xFFFC#16).toNat = i.toNat / 4 * 4 := by
    have : i &&& 0xFFFC#16 = i >>> 2 <<< 2 := by
      apply BitVec.eq_of_getLsbD_eq
      intro k hk
      have : ∀ k < 16, (0xFFFC#16).getLsbD k = decide (2 ≤ k) := by decide
      simp only [BitVec.getLsbD_and, this k hk, BitVec.getLsbD_shiftLeft, BitVec.getLsbD_ushiftRight]
      by_cases h : k < 2
      · have : ¬ 2 ≤ k := by omega
        simp [this, h]
      · have h2 : 2 ≤ k := by omega
        have e : 2 + (k - 2) = k := by omega
        simp [h2, h, e, hk]
    rw [this]
    have := i.isLt
    simp [Nat.shiftLeft_eq, Nat.shiftRight_eq_div_pow]; omega
  rw [BitVec.toInt_eq_toNat_cond, BitVec.toInt_eq_toNat_cond, h]
  have := i.isLt
  split <;> split <;> omega

theorem branchTarget_eq (s : State) (i) : s.branchTarget i = branchDestination s.pc i := by
  unfold State.branchTarget State.pcNext branchDestination
  apply BitVec.eq_of_toInt_eq
  rw [BitVec.toInt_add, BitVec.toInt_add, BitVec.toInt_ofInt, immBranch_toInt, BitVec.toInt_eq_toNat_bmod]
  simp

theorem pcNext_eq (s : State) : s.pcNext = BitVec.ofNat 32 (s.pc.toNat + 4) := by
  unfold State.pcNext
  apply BitVec.eq_of_toNat_eq; simp

theorem absoluteTarget_eq (s : State) (i : BitVec 26) : s.absoluteTarget i = BitVec.ofNat 32
    (s.pc.toNat / 2 ^ 28 * 2 ^ 28 + i.toNat * 4) := by
  apply BitVec.eq_of_toNat_eq
  simp only [State.absoluteTarget, BitVec.toNat_append, BitVec.toNat_ofNat, BitVec.extractLsb'_toNat,
      Nat.shiftRight_eq_div_pow]
  rw [← Nat.shiftLeft_add_eq_or_of_lt (by decide), ← Nat.shiftLeft_add_eq_or_of_lt i.isLt]
  simp only [Nat.shiftLeft_eq]
  have := i.isLt
  have := s.pc.isLt
  omega

theorem link_aligned {pc : Word} (h : pc.toNat % 4 = 0) : (pc + 4#32).toNat % 4 = 0 := by
  simp only [BitVec.toNat_add, BitVec.toNat_ofNat]; omega

/-- Misalignment for a width, as a remainder. -/
theorem misaligned_iff (n : Width) (va : Word) : n.misaligned va = decide (va.toNat % n.bytes ≠ 0) := by
  rw [Bool.eq_iff_iff, decide_eq_true_iff]
  cases n <;> simp only [Width.misaligned, Width.bytes]
  · simp [Nat.mod_one]
  all_goals simp [← BitVec.toNat_inj, BitVec.extractLsb'_toNat]

theorem translate_ne_misaligned (s : State) (va k) : s.translate va k ≠ .error .misaligned := by
  unfold State.translate State.tlbTranslate
  repeat' split
  all_goals (try simp)
  all_goals (split <;> simp)

theorem dataAddress_byte_ne_misaligned (s : State) (va k) : s.dataAddress va .byte k ≠ .error .misaligned := by
  unfold State.dataAddress
  split
  · simp
  · simp [Width.misaligned, translate_ne_misaligned]

theorem dataAddress_misaligned_of (s : State) (va) (n : Width) (k) (h : va.toNat % n.bytes ≠ 0)
    (h2 : s.supervisorViolation va = false) : s.dataAddress va n k = .error .misaligned := by
  unfold State.dataAddress
  rw [misaligned_iff]; simp [h, h2]

theorem jumpRegister_aligned {u : Word} {s t : State} (h : u.toNat % 4 = 0) : jumpRegister u s t = .next t := by
  unfold jumpRegister; rw [if_pos ((aligned4_iff u).2 h)]

theorem jumpRegister_misaligned {u : Word} {s t : State} (h : u.toNat % 4 ≠ 0) : jumpRegister u s t
    = raiseMisalignedDestination u s := by
  unfold jumpRegister; rw [if_neg (fun e => h ((aligned4_iff u).1 e))]

theorem returnRejected_of {s : State} (h : s.user = false ∨ s.cfg.eretBretPrivileged = false) : s.returnRejected
    = false := by
  unfold State.returnRejected; rcases h with h | h <;> simp [h]

/-! ### Rules -/

theorem decodesRegisterForm_of {opx : BitVec 6} {d : Word → Decoded} (h : ∀ w, fieldOpx w = opx → decodeRegisterForm w
    = d w) : DecodesRegisterForm opx d := by
  intro w h1 h2
  unfold decode; rw [h1]; exact h w h2

theorem registerRule_of {opx : BitVec 6} {i : RegNum → RegNum → RegNum → Instr} {f g : Word → Word → Word}
   (h : DecodesRegisterForm opx (fun w => .valid (i (fieldC w) (fieldA w) (fieldB w))))
   (h2 : ∀ s rc ra rb, exec (i rc ra rb) s = writeResult rc (g (s.readReg ra) (s.readReg rb)) s)
   (h3 : ∀ a b, g a b = f a b) : RegisterRule opx i f :=
  ⟨h, fun s rc ra rb => computes_of_writeResult (by rw [h2, h3])⟩

theorem immediateRule_of {op : BitVec 6} {i : RegNum → RegNum → BitVec 16 → Instr} {f g : Word → BitVec 16 → Word}
   (h : DecodesPrimary op (fun w => .valid (i (fieldB w) (fieldA w) (fieldImm16 w))))
   (h2 : ∀ s rb ra imm, exec (i rb ra imm) s = writeResult rb (g (s.readReg ra) imm) s)
   (h3 : ∀ a b, g a b = f a b) : ImmediateRule op i f :=
  ⟨h, fun s rc ra rb => computes_of_writeResult (by rw [h2, h3])⟩

theorem bitwiseRule_of {opx : BitVec 6} {i : RegNum → RegNum → RegNum → Instr} {f : Bool → Bool → Bool} {g : Word
    → Word → Word}
   (h : DecodesRegisterForm opx (fun w => .valid (i (fieldC w) (fieldA w) (fieldB w))))
   (h2 : ∀ s rc ra rb, exec (i rc ra rb) s = writeResult rc (g (s.readReg ra) (s.readReg rb)) s)
   (h3 : ∀ a b k, k < 32 → (g a b).getLsbD k = f (a.getLsbD k) (b.getLsbD k)) : BitwiseRule opx i f :=
  ⟨h, fun s rc ra rb => ⟨_, computes_of_writeResult (h2 s rc ra rb), fun k hk => h3 _ _ k hk⟩⟩

theorem bitwiseImmediateRule_of {op : BitVec 6} {i : RegNum → RegNum → BitVec 16 → Instr} {m : BitVec 16 → Nat → Bool}
    {f : Bool → Bool → Bool} {g : Word → BitVec 16 → Word}
   (h : DecodesPrimary op (fun w => .valid (i (fieldB w) (fieldA w) (fieldImm16 w))))
   (h2 : ∀ s rb ra imm, exec (i rb ra imm) s = writeResult rb (g (s.readReg ra) imm) s)
   (h3 : ∀ a b k, k < 32 → (g a b).getLsbD k = f (a.getLsbD k) (m b k)) : BitwiseImmediateRule op i m f :=
  ⟨h, fun s rc ra rb => ⟨_, computes_of_writeResult (h2 s rc ra rb), fun k hk => h3 _ _ k hk⟩⟩

theorem shiftRule_of {opx : BitVec 6} {i : RegNum → RegNum → RegNum → Instr} {f g : Word → Nat → Word}
   (h : DecodesRegisterForm opx (fun w => .valid (i (fieldC w) (fieldA w) (fieldB w))))
   (h2 : ∀ s rc ra rb, exec (i rc ra rb) s = writeResult rc (g (s.readReg ra) (amountOfReg (s.readReg rb))) s)
   (h3 : ∀ a b, g a b = f a b) : ShiftRule opx i f :=
  ⟨h, fun s rc ra rb => computes_of_writeResult (by rw [h2, h3, amountOfReg_eq])⟩

theorem shiftImmediateRule_of {opx : BitVec 6} {i : RegNum → RegNum → BitVec 5 → Instr} {f g : Word → Nat → Word}
   (h : DecodesRegisterForm opx (fun w => .valid (i (fieldC w) (fieldA w) (fieldImm5 w))))
   (h2 : ∀ s rc ra rb, exec (i rc ra rb) s = writeResult rc (g (s.readReg ra) (amountOfImm rb)) s)
   (h3 : ∀ a b, g a b = f a b) : ShiftImmediateRule opx i f :=
  ⟨h, fun s rc ra rb => computes_of_writeResult (by rw [h2, h3]; rfl)⟩

theorem loadRule_of {op : BitVec 6} {i : RegNum → RegNum → BitVec 16 → Instr} {n : Width} {e : Word → Word} {f : (Nat
    → Byte) → Word}
  (hd : DecodesPrimary op (fun w => .valid (i (fieldB w) (fieldA w) (fieldImm16 w))))
  (hx : ∀ rb ra imm s, exec (i rb ra imm) s = load n e rb ra imm s)
  (hf : ∀ (m : Memory) pa, e (m.value pa n) = f (fun k => m.read (byteAddress pa k))) : LoadRule op i n f :=
  ⟨hd, fun _ _ _ _ _ h hb => by rw [← hf]; exact load_computes (hx _ _ _ _) h hb⟩

theorem storeRule_of {op : BitVec 6} {i : RegNum → RegNum → BitVec 16 → Instr} {n : Width}
  (hd : DecodesPrimary op (fun w => .valid (i (fieldB w) (fieldA w) (fieldImm16 w))))
  (hx : ∀ rb ra imm s, exec (i rb ra imm) s = store n rb ra imm s) : StoreRule op i n :=
  ⟨hd, fun _ _ _ _ _ hw h hb => store_stored (hx _ _ _ _) hw h hb⟩

theorem branchRule_of {op : BitVec 6} {i : RegNum → RegNum → BitVec 16 → Instr} {p : Word → Word → Bool}
  (hd : DecodesPrimary op (fun w => .valid (i (fieldA w) (fieldB w) (fieldImm16 w))))
  (hx : ∀ ra rb imm s, exec (i ra rb imm) s = branch (p (s.readReg ra) (s.readReg rb)) imm s) : BranchRule op i p :=
  ⟨hd, fun s ra rb imm => by
    rw [← branchTarget_eq, ← pcNext_eq]; exact transfers_of_jumpTo (hx _ _ _ _)⟩

theorem exec_loadForm (p) (hp : p ∈ loadForms) : ∃ e, ∀ rb ra imm s, exec (p.1 rb ra imm) s = load p.2 e rb ra imm s
    := by
  simp only [loadForms, List.mem_cons, List.not_mem_nil, or_false] at hp
  rcases hp with rfl | rfl | rfl | rfl | rfl | rfl | rfl | rfl | rfl | rfl <;> exact ⟨_, fun _ _ _ _ => rfl⟩

theorem exec_storeForm (p) (hp : p ∈ storeForms) : ∀ rb ra imm s, exec (p.1 rb ra imm) s = store p.2 rb ra imm s := by
  simp only [storeForms, List.mem_cons, List.not_mem_nil, or_false] at hp
  rcases hp with rfl | rfl | rfl | rfl | rfl | rfl <;> exact fun _ _ _ _ => rfl

/-! ### No instruction is refused -/

theorem load_ne_refused (n e rb ra imm s r) : load n e rb ra imm s ≠ .refused r := by
  unfold load memRead
  split
  · simp
  · split <;> simp

theorem store_ne_refused (n rb ra imm s r) : store n rb ra imm s ≠ .refused r := by
  unfold store memWrite
  split
  · simp
  · split <;> simp

theorem jumpRegister_ne_refused (u s t r) : jumpRegister u s t ≠ .refused r := by
  unfold jumpRegister raiseMisalignedDestination
  split <;> simp

/-- Every instruction has a meaning. -/
theorem exec_ne_refused (i s r) : exec i s ≠ .refused r := by
  cases i
  case brk => simp only [exec, execBrk, raise]; split <;> simp
  case bret => simp only [exec, execBret, raise]; split; · simp
               exact jumpRegister_ne_refused _ _ _ _
  case eret => simp only [exec, execEret, raise]; split; · simp
               exact jumpRegister_ne_refused _ _ _ _
  case rdctl => simp only [exec, execRdctl, raise, writeResult]; split <;> simp
  case wrctl => simp only [exec, execWrctl, raise]; split <;> simp
  all_goals first
   | exact load_ne_refused _ _ _ _ _ _ _
   | exact store_ne_refused _ _ _ _ _ _
   | exact jumpRegister_ne_refused _ _ _ _
   | (intro h; cases h)

/-! ### Interrupts -/

theorem bne_zero_iff (v : Word) : (v != 0#32) = true ↔ ∃ n, n < 32 ∧ v.getLsbD n = true := by
  simp only [bne_iff_ne, ne_eq]
  constructor
  · intro h
    by_contra hc
    apply h
    apply BitVec.eq_of_getLsbD_eq
    intro i hi
    have := fun g => hc ⟨i, hi, g⟩
    simpa using this
  · rintro ⟨n, hn, h⟩ rfl
    simp at h

theorem step_of_takesInterrupt {s : State} (hr : s.refusal = none) (hs : (s.isBlockBoundary && s.stopFlag) = false)
    (ht : s.takesInterrupt = true) : step s = .next (s.endStep (dispatch .interrupt s.pc s.beginStep)) := by
  unfold step cycle
  rw [hr]; simp [hs, ht]

end Sys2Proof.Machine
end

