-- ==== Sys2Proof/Laws/Writers.lean ====
section
/-! SUPPORT. Who writes what: registers, control registers and `pc` through a dispatch and through an effect that is none. -/

namespace Sys2Proof.Machine

/-- What `wrctl` may leave otherwise than it was: the register it names, `ipending` after `ienable`, and what the two TLB
protocols fill. -/
theorem writeCtl_readCtl_cases (s : State) (n ra m : RegNum) :
    (s.writeCtl n (s.readReg ra)).readCtl m = s.readCtl m ∨ m = n ∨ (m = 4#5 ∧ n = 3#5) ∨
    ((m = 8#5 ∨ m = 9#5 ∨ m = 10#5) ∧ s.cfg.mmuPresent = true ∧ n = 10#5 ∧ tlbmiscRd (s.readReg ra) = true) ∨
    (m = 10#5 ∧ s.cfg.mmuPresent = true ∧ tlbmiscWe s.tlbmisc = true ∧ n = 9#5) := by
  by_cases h1 : m = n
  · exact .inr (.inl h1)
  by_cases h2 : m = 4#5 ∧ n = 3#5
  · exact .inr (.inr (.inl h2))
  have hst : (s.storeCtl n (s.readReg ra)).readCtl m = s.readCtl m := by
    by_cases e : m = 4#5
    · subst e
      show (s.storeCtl n (s.readReg ra)).ienable &&& (s.storeCtl n (s.readReg ra)).lines = _
      rw [storeCtl_ienable_of_ne _ _ _ (fun h => h2 ⟨rfl, regNum_eq_of_toNat h rfl⟩)]; simp [State.readCtl, State.pending]
    · exact storeCtl_readCtl_of_ne s n m _ h1 e
  rcases writeCtl_cases s n (s.readReg ra) with e | ⟨hm, hn, e⟩ | ⟨hm, hn, hr, e⟩
  · left; rw [e, hst]
  · cases hw : tlbmiscWe s.tlbmisc
    · left
      subst hn
      have : (s.storeCtl 9#5 (s.readReg ra)).tlbWrite = s.storeCtl 9#5 (s.readReg ra) := tlbWrite_of_not_we _ hw
      rw [e, this, hst]
    · by_cases h10 : m = 10#5
      · exact .inr (.inr (.inr (.inr ⟨h10, hm, rfl, hn⟩)))
      · left; rw [e, ← hst]
        have g10 : m.toNat ≠ 10 := fun e => h10 (regNum_eq_of_toNat e rfl)
        unfold State.readCtl State.pending
        split <;> first | contradiction | simp
  · by_cases h8 : m = 8#5 ∨ m = 9#5 ∨ m = 10#5
    · exact .inr (.inr (.inr (.inl ⟨h8, hm, hn, hr⟩)))
    · left; rw [e, ← hst]
      have g8 : m.toNat ≠ 8 := fun e => h8 (.inl (regNum_eq_of_toNat e rfl))
      have g9 : m.toNat ≠ 9 := fun e => h8 (.inr (.inl (regNum_eq_of_toNat e rfl)))
      have g10 : m.toNat ≠ 10 := fun e => h8 (.inr (.inr (regNum_eq_of_toNat e rfl)))
      unfold State.readCtl State.pending
      split <;> first | contradiction | simp

/-! ### An effect that is no dispatch -/

theorem quiet_readReg {i : Instr} {s t : State} (h : Quiet i s t) (q : RegNum) :
    t.readReg q = s.readReg q ∨ destinationOf i = some q := by
  cases h with
  | result r v hi =>
    by_cases e : q = r
    · right; subst e; simp [destinationOf, hi]
    · left; rw [advance_readReg, readReg_writeReg]; simp [regAfter, e]
  | link u hi =>
    by_cases e : q = regRa
    · right; subst e; simp [destinationOf, hi]
    · left; rw [jumpTo_readReg, readReg_writeReg]; simp [regAfter, e]
  | stored pa n v hi => left; rw [advance_readReg]; rfl
  | _ => left; simp

theorem quiet_pc {i : Instr} {s t : State} (h : Quiet i s t) :
    t.pc = s.pc + 4#32 ∨ roleOf i = .transfer ∨ roleOf i = .link ∨
      ((∃ imm5, i = .brk imm5) ∧ s.cfg.hostInterceptsDebug = true ∧ t.pc = s.pc) := by
  cases h with
  | transfer u hi => exact .inr (.inl hi)
  | returned u hi => subst hi; exact .inr (.inl rfl)
  | link u hi => exact .inr (.inr (.inl hi))
  | hostBreak h hi => exact .inr (.inr (.inr ⟨hi, h, rfl⟩))
  | _ => left; simp [State.pcNext]

theorem quiet_readCtl {i : Instr} {s t : State} (h : Quiet i s t) (n : RegNum) :
    t.readCtl n = s.readCtl n ∨ MayWriteCtl i s t n := by
  cases h with
  | returned u hi =>
    by_cases h0 : n = 0#5
    · exact h0 ▸ .inr (.eretStatus hi rfl)
    · left
      have h0 : n.toNat ≠ 0 := fun e => h0 (regNum_eq_of_toNat e rfl)
      unfold State.readCtl
      split <;> first | rfl | contradiction
  | stored pa m v hi => left; rw [advance_readCtl]; rfl
  | wroteCtl m ra hi hu =>
    rw [endBlock_readCtl, advance_readCtl]
    rcases writeCtl_readCtl_cases s m ra n with h | h | ⟨h, h2⟩ | ⟨h, hm, h3, hr⟩ | ⟨h, hm, hw, h4⟩
    · exact .inl h
    · exact .inr (.wrctl n ra (h ▸ hi) hu)
    · exact h ▸ .inr (.followsIenable ra (h2 ▸ hi) hu)
    · exact .inr (.tlbRead n ra h (h3 ▸ hi) hu hm hr)
    · exact h ▸ .inr (.tlbWrite ra (h4 ▸ hi) hu hm hw)
  | _ => left; simp

/-! ### A dispatch -/

theorem dispatched_readReg {s t : State} {c : Cause} (h : Dispatched s t c) (q : RegNum) :
    t.readReg q = s.readReg q ∨ (q = 29#5 ∧ s.eh = false ∧ c ≠ .debugBreak) ∨
      (q = 30#5 ∧ s.eh = false ∧ c = .debugBreak) := by
  cases he : s.eh
  · by_cases hc : c = .debugBreak
    · by_cases hq : q = 30#5
      · exact .inr (.inr ⟨hq, rfl, hc⟩)
      · left; rw [(h.savesBreak hc).firstLink he q]; simp [regAfter, regBa, hq]
    · by_cases hq : q = 29#5
      · exact .inr (.inl ⟨hq, rfl, hc⟩)
      · left; rw [(h.saves hc).firstLink he q]; simp [regAfter, regEa, hq]
  · by_cases hc : c = .debugBreak
    · exact .inl ((h.savesBreak hc).nestedLink he q)
    · exact .inl ((h.saves hc).nestedLink he q)

theorem dispatched_readCtl {i : Instr} {s t : State} {c : Cause} (h : Dispatched s t c) (n : RegNum) :
    t.readCtl n = s.readCtl n ∨ MayWriteCtl i s t n := by
  by_cases h0 : n = 0#5
  · exact h0 ▸ .inr (.dispatchStatus c h.enters)
  by_cases h7 : n = 7#5
  · exact h7 ▸ .inr (.dispatchException c h.enters)
  by_cases h1 : n = 1#5
  · subst h1
    by_cases hc : c = .debugBreak
    · exact .inl (h.savesBreak hc).estatus
    · cases he : s.eh
      · exact .inr (.firstEntry c he hc h.enters ((h.saves hc).firstStatus he))
      · exact .inl ((h.saves hc).nestedStatus he)
  by_cases h2 : n = 2#5
  · subst h2
    by_cases hc : c = .debugBreak
    · cases he : s.eh
      · exact .inr (.firstBreak he (hc ▸ h.enters) ((h.savesBreak hc).firstStatus he))
      · exact .inl ((h.savesBreak hc).nestedStatus he)
    · exact .inl (h.saves hc).breakStatus
  by_cases h8 : n = 8#5 ∧ c = .tlbMiss
  · exact h8.1 ▸ .inr (.missPage (h8.2 ▸ h.enters))
  by_cases h10 : n = 10#5 ∧ c.tlbRow ≠ .none
  · exact h10.1 ▸ .inr (.faultBits c h10.2 h.enters)
  by_cases h12 : n = 12#5 ∧ c ∈ badaddrCauses
  · exact h12.1 ▸ .inr (.faultAddress c h12.2 h.enters)
  exact .inl (h.otherCtl n h0 h1 h2 h7 (fun a b => h8 ⟨a, b⟩) (fun a => by_contra fun b => h10 ⟨a, b⟩)
    (fun a b => h12 ⟨a, b⟩))

/-- A dispatch that no interrupt causes leaves another cause than 2. -/
theorem dispatched_causeField {s t : State} {c : Cause} (h : Dispatched s t c) : t.exception.extractLsb' 2 5 ≠ 2#5 := by
  rw [h.enters.cause]; have := h.notInterrupt; revert this; cases c <;> decide

/-- Fetching, decoding and executing dispatches, or is the effect of the instruction that the word at `pc` decodes to. -/
theorem fetchDecodeExecute_cases {s t : State} (hp : aligned4 s.pc = true) (h : fetchDecodeExecute s = .next t) :
    (∃ c, Dispatched s t c) ∨ ∃ w i, s.fetchWord = .word w ∧ decode w = .valid i ∧ Effect i s t := by
  unfold fetchDecodeExecute at h
  split at h
  · cases h; exact .inl ⟨_, dispatched_badAccess _ _ _ _⟩
  · cases h
  rename_i w hw
  split at h
  · rename_i i hi; exact .inr ⟨w, i, hw, hi, exec_effect hp h⟩
  · rename_i i hi
    have hn := decode_unimplemented hi
    left; cases i <;> first | (cases hn; done) | (cases h; exact ⟨_, dispatched_exception (by decide) _⟩)
  · cases h; exact .inl ⟨_, dispatched_exception (by decide) _⟩

end Sys2Proof.Machine
end

