-- ==== Sys2Proof/WellFormed.lean ====
section
/-! DEFINITION. Which terms of `Instr` an assembler can write. -/

namespace Sys2Proof

/-- A branch offset between two instruction addresses: `IMM16 = label - (pc + 4)` with both multiples of 4
(30_encoding.md R124, 44_control_transfer.md R236). -/
def branchOffsetAligned (imm16 : BitVec 16) : Bool := imm16.extractLsb' 0 2 == 0#2

/-- The check on an instruction term. The width of every operand is its type, so the one thing a term can
get wrong is a branch offset no label gives. The machine runs such a word all the same, with the two low bits
cleared (44_control_transfer.md R236), and `decode` and `encode` agree on it as on every other. -/
def Instr.wellFormed (i : Instr) : Bool :=
  match i with
  | .br imm16 => branchOffsetAligned imm16
  | .beq _ _ imm16 => branchOffsetAligned imm16
  | .bne _ _ imm16 => branchOffsetAligned imm16
  | .bge _ _ imm16 => branchOffsetAligned imm16
  | .bgeu _ _ imm16 => branchOffsetAligned imm16
  | .blt _ _ imm16 => branchOffsetAligned imm16
  | .bltu _ _ imm16 => branchOffsetAligned imm16
  | .add _ _ _ => true
  | .addi _ _ _ => true
  | .sub _ _ _ => true
  | .mul _ _ _ => true
  | .muli _ _ _ => true
  | .mulxss _ _ _ => true
  | .mulxsu _ _ _ => true
  | .mulxuu _ _ _ => true
  | .div _ _ _ => true
  | .divu _ _ _ => true
  | .and _ _ _ => true
  | .andi _ _ _ => true
  | .andhi _ _ _ => true
  | .or _ _ _ => true
  | .ori _ _ _ => true
  | .orhi _ _ _ => true
  | .xor _ _ _ => true
  | .xori _ _ _ => true
  | .xorhi _ _ _ => true
  | .nor _ _ _ => true
  | .cmpeq _ _ _ => true
  | .cmpne _ _ _ => true
  | .cmpge _ _ _ => true
  | .cmpgeu _ _ _ => true
  | .cmplt _ _ _ => true
  | .cmpltu _ _ _ => true
  | .cmpeqi _ _ _ => true
  | .cmpnei _ _ _ => true
  | .cmpgei _ _ _ => true
  | .cmpgeui _ _ _ => true
  | .cmplti _ _ _ => true
  | .cmpltui _ _ _ => true
  | .sll _ _ _ => true
  | .slli _ _ _ => true
  | .srl _ _ _ => true
  | .srli _ _ _ => true
  | .sra _ _ _ => true
  | .srai _ _ _ => true
  | .rol _ _ _ => true
  | .roli _ _ _ => true
  | .ror _ _ _ => true
  | .ldb _ _ _ => true
  | .ldbu _ _ _ => true
  | .ldh _ _ _ => true
  | .ldhu _ _ _ => true
  | .ldw _ _ _ => true
  | .ldbio _ _ _ => true
  | .ldbuio _ _ _ => true
  | .ldhio _ _ _ => true
  | .ldhuio _ _ _ => true
  | .ldwio _ _ _ => true
  | .stb _ _ _ => true
  | .sth _ _ _ => true
  | .stw _ _ _ => true
  | .stbio _ _ _ => true
  | .sthio _ _ _ => true
  | .stwio _ _ _ => true
  | .call _ => true
  | .jmpi _ => true
  | .callr _ => true
  | .jmp _ => true
  | .ret => true
  | .nextpc _ => true
  | .trap _ => true
  | .brk _ => true
  | .bret => true
  | .eret => true
  | .rdctl _ _ => true
  | .wrctl _ _ => true
  | .sync => true
  | .flushd _ _ => true
  | .flushda _ _ => true
  | .flushi _ => true
  | .flushp => true
  | .initd _ _ => true
  | .initda _ _ => true
  | .initi _ => true
  | .custom _ => true
  | .rdprs _ _ _ => true
  | .wrprs _ _ => true

end Sys2Proof
end

