-- ==== Sys2Proof/Tests/Slice0.lean ====
section
/-! SUPPORT. Tests of the model against the spec's own examples and vectors, and a witness for the hypotheses of each
obligation. -/

namespace Sys2Proof.Tests

open Sys2Proof Sys2Proof.Machine

/-! ### The states of 95_test_vectors.md part 2 -/

/-- The word at `pc`, everything else as reset leaves it. -/
def vecAt (pc : Word) (w : Nat) : State := ({ State.reset with pc := pc } : State).withFetchWord 32 w

/-- The word at 0x100. -/
def vec (w : Nat) : State := vecAt 0x100#32 w

/-- The bytes 80 91 A2 B3 C4 D5 E6 F7 at 0x200. -/
def withBytes (s : State) : State :=
  { s with mem := (s.mem.store 0x200#32 .word 0xB3A29180#32).store 0x204#32 .word 0xF7E6D5C4#32 }

/-- The word at 0x100 and the bytes of section 2.5. -/
def vecMem (w : Nat) : State := withBytes (vec w)

/-- Whether one step completes in a state with a property. -/
def after (s : State) (p : State → Bool) : Bool :=
  match step s with
  | .next t => p t
  | .fault _ => false
  | .refused _ => false

/-- Whether one instruction completes in a state with a property. -/
def completes (i : Instr) (s : State) (p : State → Bool) : Bool :=
  match exec i s with
  | .next t => p t
  | .fault _ => false
  | .refused _ => false

/-! ### WellFormed: an ill-formed term for each check -/

theorem test_wellFormed_refuses_unaligned_offsets :
    (Instr.br 2#16).wellFormed = false ∧ (Instr.beq 1#5 2#5 1#16).wellFormed = false ∧
    (Instr.bne 1#5 2#5 3#16).wellFormed = false ∧ (Instr.bge 1#5 2#5 0xFFFF#16).wellFormed = false ∧
    (Instr.bgeu 1#5 2#5 2#16).wellFormed = false ∧ (Instr.blt 1#5 2#5 2#16).wellFormed = false ∧
    (Instr.bltu 1#5 2#5 0xFFFE#16).wellFormed = false := by decide

theorem test_wellFormed_accepts :
    (Instr.br 8#16).wellFormed = true ∧ (Instr.beq 1#5 2#5 0x8000#16).wellFormed = true ∧
    (Instr.addi 2#5 1#5 3#16).wellFormed = true := by decide

/-! ### Decoding: a word of the spec for every constructor
    (95_test_vectors.md part 2; operands read off its assembly) -/

theorem test_decode_arithmetic :
    decode 0x0887883A#32 = .valid (.add 3#5 1#5 2#5) ∧
    decode 0x08BFFFC4#32 = .valid (.addi 2#5 1#5 0xFFFF#16) ∧
    decode 0x0887C83A#32 = .valid (.sub 3#5 1#5 2#5) ∧
    decode 0x0887383A#32 = .valid (.mul 3#5 1#5 2#5) ∧
    decode 0x08BFFF64#32 = .valid (.muli 2#5 1#5 0xFFFD#16) ∧
    decode 0x0886F83A#32 = .valid (.mulxss 3#5 1#5 2#5) ∧
    decode 0x0886B83A#32 = .valid (.mulxsu 3#5 1#5 2#5) ∧
    decode 0x0886383A#32 = .valid (.mulxuu 3#5 1#5 2#5) ∧
    decode 0x0887283A#32 = .valid (.div 3#5 1#5 2#5) ∧
    decode 0x0887203A#32 = .valid (.divu 3#5 1#5 2#5) := by decide

theorem test_decode_logic :
    decode 0x0886703A#32 = .valid (.and 3#5 1#5 2#5) ∧
    decode 0x08BFC00C#32 = .valid (.andi 2#5 1#5 0xFF00#16) ∧
    decode 0x08BFC02C#32 = .valid (.andhi 2#5 1#5 0xFF00#16) ∧
    decode 0x0886B03A#32 = .valid (.or 3#5 1#5 2#5) ∧
    decode 0x08A00014#32 = .valid (.ori 2#5 1#5 0x8000#16) ∧
    decode 0x08848D34#32 = .valid (.orhi 2#5 1#5 0x1234#16) ∧
    decode 0x0886F03A#32 = .valid (.xor 3#5 1#5 2#5) ∧
    decode 0x08BFFFDC#32 = .valid (.xori 2#5 1#5 0xFFFF#16) ∧
    decode 0x08BFFFFC#32 = .valid (.xorhi 2#5 1#5 0xFFFF#16) ∧
    decode 0x0886303A#32 = .valid (.nor 3#5 1#5 2#5) := by decide

theorem test_decode_compare :
    decode 0x0887003A#32 = .valid (.cmpeq 3#5 1#5 2#5) ∧
    decode 0x0886C03A#32 = .valid (.cmpne 3#5 1#5 2#5) ∧
    decode 0x0886403A#32 = .valid (.cmpge 3#5 1#5 2#5) ∧
    decode 0x0887403A#32 = .valid (.cmpgeu 3#5 1#5 2#5) ∧
    decode 0x0886803A#32 = .valid (.cmplt 3#5 1#5 2#5) ∧
    decode 0x0887803A#32 = .valid (.cmpltu 3#5 1#5 2#5) ∧
    decode 0x08BFFFE0#32 = .valid (.cmpeqi 2#5 1#5 0xFFFF#16) ∧
    decode 0x08800018#32 = .valid (.cmpnei 2#5 1#5 0x0000#16) ∧
    decode 0x08BFFFC8#32 = .valid (.cmpgei 2#5 1#5 0xFFFF#16) ∧
    decode 0x08BFFFE8#32 = .valid (.cmpgeui 2#5 1#5 0xFFFF#16) ∧
    decode 0x08BFFFD0#32 = .valid (.cmplti 2#5 1#5 0xFFFF#16) ∧
    decode 0x08BFFFF0#32 = .valid (.cmpltui 2#5 1#5 0xFFFF#16) := by decide

theorem test_decode_shift :
    decode 0x0886983A#32 = .valid (.sll 3#5 1#5 2#5) ∧
    decode 0x080697FA#32 = .valid (.slli 3#5 1#5 31#5) ∧
    decode 0x0886D83A#32 = .valid (.srl 3#5 1#5 2#5) ∧
    decode 0x0806D13A#32 = .valid (.srli 3#5 1#5 4#5) ∧
    decode 0x0887D83A#32 = .valid (.sra 3#5 1#5 2#5) ∧
    decode 0x0807D13A#32 = .valid (.srai 3#5 1#5 4#5) ∧
    decode 0x0886183A#32 = .valid (.rol 3#5 1#5 2#5) ∧
    decode 0x0806123A#32 = .valid (.roli 3#5 1#5 8#5) ∧
    decode 0x0886583A#32 = .valid (.ror 3#5 1#5 2#5) := by decide

theorem test_decode_load :
    decode 0x297FFFC7#32 = .valid (.ldb 5#5 5#5 0xFFFF#16) ∧
    decode 0x21400003#32 = .valid (.ldbu 5#5 4#5 0x0000#16) ∧
    decode 0x2140008F#32 = .valid (.ldh 5#5 4#5 0x0002#16) ∧
    decode 0x2140008B#32 = .valid (.ldhu 5#5 4#5 0x0002#16) ∧
    decode 0x217FFF17#32 = .valid (.ldw 5#5 4#5 0xFFFC#16) ∧
    decode 0x21400027#32 = .valid (.ldbio 5#5 4#5 0x0000#16) ∧
    decode 0x21400023#32 = .valid (.ldbuio 5#5 4#5 0x0000#16) ∧
    decode 0x214000AF#32 = .valid (.ldhio 5#5 4#5 0x0002#16) ∧
    decode 0x214000AB#32 = .valid (.ldhuio 5#5 4#5 0x0002#16) ∧
    decode 0x21400137#32 = .valid (.ldwio 5#5 4#5 0x0004#16) := by decide

theorem test_decode_store :
    decode 0x21400045#32 = .valid (.stb 5#5 4#5 0x0001#16) ∧
    decode 0x2140008D#32 = .valid (.sth 5#5 4#5 0x0002#16) ∧
    decode 0x21400115#32 = .valid (.stw 5#5 4#5 0x0004#16) ∧
    decode 0x21400065#32 = .valid (.stbio 5#5 4#5 0x0001#16) ∧
    decode 0x214000AD#32 = .valid (.sthio 5#5 4#5 0x0002#16) ∧
    decode 0x21400135#32 = .valid (.stwio 5#5 4#5 0x0004#16) := by decide

theorem test_decode_branch :
    decode 0x003FFF06#32 = .valid (.br 0xFFFC#16) ∧
    decode 0x08600026#32 = .valid (.beq 1#5 1#5 0x8000#16) ∧
    decode 0x0880021E#32 = .valid (.bne 1#5 2#5 0x0008#16) ∧
    decode 0x0880020E#32 = .valid (.bge 1#5 2#5 0x0008#16) ∧
    decode 0x0880022E#32 = .valid (.bgeu 1#5 2#5 0x0008#16) ∧
    decode 0x08800216#32 = .valid (.blt 1#5 2#5 0x0008#16) ∧
    decode 0x08800236#32 = .valid (.bltu 1#5 2#5 0x0008#16) := by decide

theorem test_decode_jump :
    decode 0x00010000#32 = .valid (.call 0x0000400#26) ∧
    decode 0x00010001#32 = .valid (.jmpi 0x0000400#26) ∧
    decode 0xF83EE83A#32 = .valid (.callr 31#5) ∧
    decode 0x2000683A#32 = .valid (.jmp 4#5) ∧
    decode 0xF800283A#32 = .valid (.ret) ∧
    decode 0x000AE03A#32 = .valid (.nextpc 5#5) := by decide

theorem test_decode_system :
    decode 0x003B697A#32 = .valid (.trap 5#5) ∧
    decode 0x003DA03A#32 = .valid (.brk 0#5) ∧
    decode 0xF000483A#32 = .valid (.bret) ∧
    decode 0xEF80083A#32 = .valid (.eret) ∧
    decode 0x000537FA#32 = .valid (.rdctl 2#5 31#5) ∧
    decode 0x0801733A#32 = .valid (.wrctl 12#5 1#5) ∧
    decode 0x0001B03A#32 = .valid (.sync) := by decide

theorem test_decode_cache :
    decode 0x0800003B#32 = .valid (.flushd 1#5 0x0000#16) ∧
    decode 0x0800001B#32 = .valid (.flushda 1#5 0x0000#16) ∧
    decode 0x0800603A#32 = .valid (.flushi 1#5) ∧
    decode 0x0000203A#32 = .valid (.flushp) ∧
    decode 0x08000033#32 = .valid (.initd 1#5 0x0000#16) ∧
    decode 0x08000013#32 = .valid (.initda 1#5 0x0000#16) ∧
    decode 0x0801483A#32 = .valid (.initi 1#5) := by decide

theorem test_decode_unimplemented :
    decode 0x00000032#32 = .unimplemented (.custom 0#26) ∧
    decode 0x08800038#32 = .unimplemented (.rdprs 2#5 1#5 0x0000#16) ∧
    decode 0x0806A03A#32 = .unimplemented (.wrprs 3#5 1#5) := by decide

/-- The words of 95_test_vectors.md S2. -/
theorem test_decode_field_round_trip :
    decode 0x08AAF344#32 = .valid (.addi 2#5 1#5 0xABCD#16) ∧ decode 0xF8000057#32 = .valid (.ldw 0#5 31#5 1#16) ∧
    decode 0xAAAA957A#32 = .valid (.slli 21#5 21#5 0x15#5) ∧ decode 0xAAF37BC0#32 = .valid (.call 0x2ABCDEF#26) := by
  decide

/-- The `add` word, its bits written out field by field: A, B, C, OPX, IMM5, OP (30_encoding.md R112). -/
theorem test_decode_add_bit_by_bit :
    decode (0b00001#5 ++ 0b00010#5 ++ 0b00011#5 ++ 0b110001#6 ++ 0b00000#5 ++ 0b111010#6) = .valid (.add 3#5 1#5 2#5)
        := by
  decide

/-- The counts of 95_test_vectors.md S1 for the primary table. -/
theorem test_primary_table_counts :
    ((List.range 64).filter (fun k => match decode (BitVec.ofNat 32 k) with
      | .illegal (.primaryOpcode _) => true
      | _ => false)).length = 18 ∧
    ((List.range 64).filter (fun k => match decode (BitVec.ofNat 32 k) with
      | .unimplemented _ => true
      | _ => false)).length = 2 := by decide

/-- The counts of 95_test_vectors.md S1 for the secondary table. -/
theorem test_secondary_table_counts :
    ((List.range 64).filter (fun k => match decode (BitVec.ofNat 32 (k * 2048 + 0x3A)) with
      | .illegal (.subOpcode _) => true
      | _ => false)).length = 22 ∧
    ((List.range 64).filter (fun k => match decode (BitVec.ofNat 32 (k * 2048 + 0x3A)) with
      | .unimplemented _ => true
      | _ => false)).length = 1 := by decide

/-- `decodeTableWord` numbers bits as the opcode table does, and rejects the illegal words. -/
theorem test_decodeTableWord :
    decodeTableWord 32 0x0887883A = some (.add 3#5 1#5 2#5) ∧ decodeTableWord 32 0x02 = none ∧
    decodeTableWord 32 0x32 = some (.custom 0#26) := by decide

/-! ### One step (95_test_vectors.md 2.1 to 2.7) -/

theorem test_add_wraps_without_exception :
    after (((vec 0x0887883A).writeReg 1#5 0xFFFFFFFF#32).writeReg 2#5 0x00000001#32) (fun t =>
      t.readReg 3#5 == 0x00000000#32 && t.pc == 0x00000104#32) = true := by decide

theorem test_add_source_is_destination :
    after ((vec 0x0843883A).writeReg 1#5 0x40000001#32) (fun t =>
      t.readReg 1#5 == 0x80000002#32 && t.pc == 0x00000104#32) = true := by decide

theorem test_addi_sign_extends :
    after ((vec 0x08BFFFC4).writeReg 1#5 0x00000000#32) (fun t =>
      t.readReg 2#5 == 0xFFFFFFFF#32 && t.pc == 0x00000104#32) = true := by decide

theorem test_addi_least_immediate :
    after ((vec 0x08A00004).writeReg 1#5 0x00000000#32) (fun t =>
      t.readReg 2#5 == 0xFFFF8000#32 && t.pc == 0x00000104#32) = true := by decide

theorem test_sub_borrows :
    after (((vec 0x0887C83A).writeReg 1#5 0x00000000#32).writeReg 2#5 0x00000001#32) (fun t =>
      t.readReg 3#5 == 0xFFFFFFFF#32 && t.pc == 0x00000104#32) = true := by decide

theorem test_sub_overflow_ignored :
    after (((vec 0x0887C83A).writeReg 1#5 0x80000000#32).writeReg 2#5 0x00000001#32) (fun t =>
      t.readReg 3#5 == 0x7FFFFFFF#32 && t.pc == 0x00000104#32) = true := by decide

theorem test_mul_low_word :
    after (((vec 0x0887383A).writeReg 1#5 0x12345678#32).writeReg 2#5 0x9ABCDEF0#32) (fun t =>
      t.readReg 3#5 == 0x242D2080#32 && t.pc == 0x00000104#32) = true := by decide

theorem test_muli_sign_extends :
    after ((vec 0x08BFFF64).writeReg 1#5 0x00000007#32) (fun t =>
      t.readReg 2#5 == 0xFFFFFFEB#32 && t.pc == 0x00000104#32) = true := by decide

theorem test_mulxss_mixed_signs :
    after (((vec 0x0886F83A).writeReg 1#5 0x80000000#32).writeReg 2#5 0x7FFFFFFF#32) (fun t =>
      t.readReg 3#5 == 0xC0000000#32 && t.pc == 0x00000104#32) = true := by decide

theorem test_mulxss_both_negative :
    after (((vec 0x0886F83A).writeReg 1#5 0xFFFFFFFF#32).writeReg 2#5 0xFFFFFFFF#32) (fun t =>
      t.readReg 3#5 == 0x00000000#32 && t.pc == 0x00000104#32) = true := by decide

theorem test_mulxsu_second_operand_unsigned :
    after (((vec 0x0886B83A).writeReg 1#5 0xFFFFFFFF#32).writeReg 2#5 0xFFFFFFFF#32) (fun t =>
      t.readReg 3#5 == 0xFFFFFFFF#32 && t.pc == 0x00000104#32) = true := by decide

theorem test_mulxuu_greatest :
    after (((vec 0x0886383A).writeReg 1#5 0xFFFFFFFF#32).writeReg 2#5 0xFFFFFFFF#32) (fun t =>
      t.readReg 3#5 == 0xFFFFFFFE#32 && t.pc == 0x00000104#32) = true := by decide

theorem test_div_truncates_toward_zero :
    after (((vec 0x0887283A).writeReg 1#5 0xFFFFFFF9#32).writeReg 2#5 0x00000002#32) (fun t =>
      t.readReg 3#5 == 0xFFFFFFFD#32 && t.pc == 0x00000104#32) = true := by decide

theorem test_div_both_negative :
    after (((vec 0x0887283A).writeReg 1#5 0xFFFFFFF9#32).writeReg 2#5 0xFFFFFFFE#32) (fun t =>
      t.readReg 3#5 == 0x00000003#32 && t.pc == 0x00000104#32) = true := by decide

theorem test_divu_unsigned :
    after (((vec 0x0887203A).writeReg 1#5 0xFFFFFFF9#32).writeReg 2#5 0x00000002#32) (fun t =>
      t.readReg 3#5 == 0x7FFFFFFC#32 && t.pc == 0x00000104#32) = true := by decide

theorem test_and :
    after (((vec 0x0886703A).writeReg 1#5 0xFF00FF00#32).writeReg 2#5 0x0FF00FF0#32) (fun t =>
      t.readReg 3#5 == 0x0F000F00#32 && t.pc == 0x00000104#32) = true := by decide

theorem test_andi_clears_upper_half :
    after ((vec 0x08BFC00C).writeReg 1#5 0xFFFFFFFF#32) (fun t =>
      t.readReg 2#5 == 0x0000FF00#32 && t.pc == 0x00000104#32) = true := by decide

theorem test_andhi_clears_lower_half :
    after ((vec 0x08BFC02C).writeReg 1#5 0xFFFFFFFF#32) (fun t =>
      t.readReg 2#5 == 0xFF000000#32 && t.pc == 0x00000104#32) = true := by decide

theorem test_or :
    after (((vec 0x0886B03A).writeReg 1#5 0xFF00FF00#32).writeReg 2#5 0x0FF00FF0#32) (fun t =>
      t.readReg 3#5 == 0xFFF0FFF0#32 && t.pc == 0x00000104#32) = true := by decide

theorem test_ori_not_sign_extended :
    after ((vec 0x08A00014).writeReg 1#5 0x00000000#32) (fun t =>
      t.readReg 2#5 == 0x00008000#32 && t.pc == 0x00000104#32) = true := by decide

theorem test_orhi :
    after ((vec 0x08848D34).writeReg 1#5 0x00005678#32) (fun t =>
      t.readReg 2#5 == 0x12345678#32 && t.pc == 0x00000104#32) = true := by decide

theorem test_xor :
    after (((vec 0x0886F03A).writeReg 1#5 0xFF00FF00#32).writeReg 2#5 0x0FF00FF0#32) (fun t =>
      t.readReg 3#5 == 0xF0F0F0F0#32 && t.pc == 0x00000104#32) = true := by decide

theorem test_xori :
    after ((vec 0x08BFFFDC).writeReg 1#5 0x12345678#32) (fun t =>
      t.readReg 2#5 == 0x1234A987#32 && t.pc == 0x00000104#32) = true := by decide

theorem test_xorhi :
    after ((vec 0x08BFFFFC).writeReg 1#5 0x12345678#32) (fun t =>
      t.readReg 2#5 == 0xEDCB5678#32 && t.pc == 0x00000104#32) = true := by decide

theorem test_nor :
    after (((vec 0x0886303A).writeReg 1#5 0xFF00FF00#32).writeReg 2#5 0x0FF00FF0#32) (fun t =>
      t.readReg 3#5 == 0x000F000F#32 && t.pc == 0x00000104#32) = true := by decide

theorem test_nor_as_not :
    after ((vec 0x0846303A).writeReg 1#5 0x12345678#32) (fun t =>
      t.readReg 3#5 == 0xEDCBA987#32 && t.pc == 0x00000104#32) = true := by decide

theorem test_cmpeq_equal :
    after (((vec 0x0887003A).writeReg 1#5 0x00000005#32).writeReg 2#5 0x00000005#32) (fun t =>
      t.readReg 3#5 == 0x00000001#32 && t.pc == 0x00000104#32) = true := by decide

theorem test_cmpeq_unequal :
    after (((vec 0x0887003A).writeReg 1#5 0x80000000#32).writeReg 2#5 0x7FFFFFFF#32) (fun t =>
      t.readReg 3#5 == 0x00000000#32 && t.pc == 0x00000104#32) = true := by decide

theorem test_cmpne_equal :
    after (((vec 0x0886C03A).writeReg 1#5 0x00000005#32).writeReg 2#5 0x00000005#32) (fun t =>
      t.readReg 3#5 == 0x00000000#32 && t.pc == 0x00000104#32) = true := by decide

theorem test_cmpne_unequal :
    after (((vec 0x0886C03A).writeReg 1#5 0x80000000#32).writeReg 2#5 0x7FFFFFFF#32) (fun t =>
      t.readReg 3#5 == 0x00000001#32 && t.pc == 0x00000104#32) = true := by decide

theorem test_cmpge_signed :
    after (((vec 0x0886403A).writeReg 1#5 0xFFFFFFFF#32).writeReg 2#5 0x00000000#32) (fun t =>
      t.readReg 3#5 == 0x00000000#32 && t.pc == 0x00000104#32) = true := by decide

theorem test_cmpge_equal :
    after (((vec 0x0886403A).writeReg 1#5 0x00000005#32).writeReg 2#5 0x00000005#32) (fun t =>
      t.readReg 3#5 == 0x00000001#32 && t.pc == 0x00000104#32) = true := by decide

theorem test_cmpgeu_unsigned :
    after (((vec 0x0887403A).writeReg 1#5 0xFFFFFFFF#32).writeReg 2#5 0x00000000#32) (fun t =>
      t.readReg 3#5 == 0x00000001#32 && t.pc == 0x00000104#32) = true := by decide

theorem test_cmpgeu_equal :
    after (((vec 0x0887403A).writeReg 1#5 0x00000005#32).writeReg 2#5 0x00000005#32) (fun t =>
      t.readReg 3#5 == 0x00000001#32 && t.pc == 0x00000104#32) = true := by decide

theorem test_cmplt_signed :
    after (((vec 0x0886803A).writeReg 1#5 0xFFFFFFFF#32).writeReg 2#5 0x00000000#32) (fun t =>
      t.readReg 3#5 == 0x00000001#32 && t.pc == 0x00000104#32) = true := by decide

theorem test_cmplt_equal :
    after (((vec 0x0886803A).writeReg 1#5 0x00000005#32).writeReg 2#5 0x00000005#32) (fun t =>
      t.readReg 3#5 == 0x00000000#32 && t.pc == 0x00000104#32) = true := by decide

theorem test_cmpltu_unsigned :
    after (((vec 0x0887803A).writeReg 1#5 0xFFFFFFFF#32).writeReg 2#5 0x00000000#32) (fun t =>
      t.readReg 3#5 == 0x00000000#32 && t.pc == 0x00000104#32) = true := by decide

theorem test_cmpltu_equal :
    after (((vec 0x0887803A).writeReg 1#5 0x00000005#32).writeReg 2#5 0x00000005#32) (fun t =>
      t.readReg 3#5 == 0x00000000#32 && t.pc == 0x00000104#32) = true := by decide

theorem test_cmpeqi_sign_extends :
    after ((vec 0x08BFFFE0).writeReg 1#5 0xFFFFFFFF#32) (fun t =>
      t.readReg 2#5 == 0x00000001#32 && t.pc == 0x00000104#32) = true := by decide

theorem test_cmpeqi_low_half_differs :
    after ((vec 0x08BFFFE0).writeReg 1#5 0x0000FFFF#32) (fun t =>
      t.readReg 2#5 == 0x00000000#32 && t.pc == 0x00000104#32) = true := by decide

theorem test_cmpnei_unequal :
    after ((vec 0x08800018).writeReg 1#5 0x00000007#32) (fun t =>
      t.readReg 2#5 == 0x00000001#32 && t.pc == 0x00000104#32) = true := by decide

theorem test_cmpnei_equal :
    after ((vec 0x08800018).writeReg 1#5 0x00000000#32) (fun t =>
      t.readReg 2#5 == 0x00000000#32 && t.pc == 0x00000104#32) = true := by decide

theorem test_cmpgei_signed :
    after ((vec 0x08BFFFC8).writeReg 1#5 0x00000000#32) (fun t =>
      t.readReg 2#5 == 0x00000001#32 && t.pc == 0x00000104#32) = true := by decide

theorem test_cmpgei_below :
    after ((vec 0x08BFFFC8).writeReg 1#5 0xFFFFFFFE#32) (fun t =>
      t.readReg 2#5 == 0x00000000#32 && t.pc == 0x00000104#32) = true := by decide

theorem test_cmpgeui_zero_extends :
    after ((vec 0x08BFFFE8).writeReg 1#5 0x00010000#32) (fun t =>
      t.readReg 2#5 == 0x00000001#32 && t.pc == 0x00000104#32) = true := by decide

theorem test_cmpgeui_below :
    after ((vec 0x08BFFFE8).writeReg 1#5 0x0000FFFE#32) (fun t =>
      t.readReg 2#5 == 0x00000000#32 && t.pc == 0x00000104#32) = true := by decide

theorem test_cmplti_below :
    after ((vec 0x08BFFFD0).writeReg 1#5 0xFFFFFFFE#32) (fun t =>
      t.readReg 2#5 == 0x00000001#32 && t.pc == 0x00000104#32) = true := by decide

theorem test_cmplti_equal :
    after ((vec 0x08BFFFD0).writeReg 1#5 0xFFFFFFFF#32) (fun t =>
      t.readReg 2#5 == 0x00000000#32 && t.pc == 0x00000104#32) = true := by decide

theorem test_cmpltui_below :
    after ((vec 0x08BFFFF0).writeReg 1#5 0x0000FFFE#32) (fun t =>
      t.readReg 2#5 == 0x00000001#32 && t.pc == 0x00000104#32) = true := by decide

theorem test_cmpltui_unsigned :
    after ((vec 0x08BFFFF0).writeReg 1#5 0xFFFFFFFF#32) (fun t =>
      t.readReg 2#5 == 0x00000000#32 && t.pc == 0x00000104#32) = true := by decide

theorem test_sll_amount_32_is_0 :
    after (((vec 0x0886983A).writeReg 1#5 0x80000001#32).writeReg 2#5 0x00000020#32) (fun t =>
      t.readReg 3#5 == 0x80000001#32 && t.pc == 0x00000104#32) = true := by decide

theorem test_sll_amount_mod_32 :
    after (((vec 0x0886983A).writeReg 1#5 0x00000001#32).writeReg 2#5 0xFFFFFFFF#32) (fun t =>
      t.readReg 3#5 == 0x80000000#32 && t.pc == 0x00000104#32) = true := by decide

theorem test_slli_31 :
    after ((vec 0x080697FA).writeReg 1#5 0x00000003#32) (fun t =>
      t.readReg 3#5 == 0x80000000#32 && t.pc == 0x00000104#32) = true := by decide

theorem test_srl_amount_33_is_1 :
    after (((vec 0x0886D83A).writeReg 1#5 0x80000000#32).writeReg 2#5 0x00000021#32) (fun t =>
      t.readReg 3#5 == 0x40000000#32 && t.pc == 0x00000104#32) = true := by decide

theorem test_srli :
    after ((vec 0x0806D13A).writeReg 1#5 0x87654321#32) (fun t =>
      t.readReg 3#5 == 0x08765432#32 && t.pc == 0x00000104#32) = true := by decide

theorem test_sra_floors :
    after (((vec 0x0887D83A).writeReg 1#5 0xFFFFFFF9#32).writeReg 2#5 0x00000001#32) (fun t =>
      t.readReg 3#5 == 0xFFFFFFFC#32 && t.pc == 0x00000104#32) = true := by decide

theorem test_srai_sign_fills :
    after ((vec 0x0807D7FA).writeReg 1#5 0x80000000#32) (fun t =>
      t.readReg 3#5 == 0xFFFFFFFF#32 && t.pc == 0x00000104#32) = true := by decide

theorem test_rol :
    after (((vec 0x0886183A).writeReg 1#5 0x80000001#32).writeReg 2#5 0x00000001#32) (fun t =>
      t.readReg 3#5 == 0x00000003#32 && t.pc == 0x00000104#32) = true := by decide

theorem test_rol_amount_32_is_0 :
    after (((vec 0x0886183A).writeReg 1#5 0x12345678#32).writeReg 2#5 0x00000020#32) (fun t =>
      t.readReg 3#5 == 0x12345678#32 && t.pc == 0x00000104#32) = true := by decide

theorem test_roli :
    after ((vec 0x0806163A).writeReg 1#5 0x12345678#32) (fun t =>
      t.readReg 3#5 == 0x78123456#32 && t.pc == 0x00000104#32) = true := by decide

theorem test_ror :
    after (((vec 0x0886583A).writeReg 1#5 0x12345678#32).writeReg 2#5 0x00000008#32) (fun t =>
      t.readReg 3#5 == 0x78123456#32 && t.pc == 0x00000104#32) = true := by decide

theorem test_ror_wraps_bit_0 :
    after (((vec 0x0886583A).writeReg 1#5 0x00000001#32).writeReg 2#5 0x00000001#32) (fun t =>
      t.readReg 3#5 == 0x80000000#32 && t.pc == 0x00000104#32) = true := by decide

theorem test_ldb_sign_extends :
    after ((vecMem 0x21400007).writeReg 4#5 0x00000200#32) (fun t =>
      t.readReg 5#5 == 0xFFFFFF80#32 && t.pc == 0x00000104#32) = true := by decide

theorem test_ldb_base_is_destination :
    after (((vecMem 0x297FFFC7).writeReg 4#5 0x00000200#32).writeReg 5#5 0x00000204#32) (fun t =>
      t.readReg 5#5 == 0xFFFFFFB3#32 && t.pc == 0x00000104#32) = true := by decide

theorem test_ldbu_zero_extends :
    after ((vecMem 0x21400003).writeReg 4#5 0x00000200#32) (fun t =>
      t.readReg 5#5 == 0x00000080#32 && t.pc == 0x00000104#32) = true := by decide

theorem test_ldbu_address_wraps :
    after ((vecMem 0x215FFFC3).writeReg 4#5 0xFFFF8201#32) (fun t =>
      t.readReg 5#5 == 0x00000080#32 && t.pc == 0x00000104#32) = true := by decide

theorem test_ldbio :
    after ((vecMem 0x21400027).writeReg 4#5 0x00000200#32) (fun t =>
      t.readReg 5#5 == 0xFFFFFF80#32 && t.pc == 0x00000104#32) = true := by decide

theorem test_ldbuio :
    after ((vecMem 0x21400023).writeReg 4#5 0x00000200#32) (fun t =>
      t.readReg 5#5 == 0x00000080#32 && t.pc == 0x00000104#32) = true := by decide

theorem test_ldh_little_endian :
    after ((vecMem 0x2140008F).writeReg 4#5 0x00000200#32) (fun t =>
      t.readReg 5#5 == 0xFFFFB3A2#32 && t.pc == 0x00000104#32) = true := by decide

theorem test_ldh_misaligned :
    after (((vecMem 0x2140004F).writeReg 4#5 0x00000200#32).writeReg 5#5 0x00000077#32) (fun t =>
      t.badaddr == 0x00000201#32 && t.readReg 29#5 == 0x00000104#32 && t.pc == 0x00000080#32 &&
          t.exception == 0x00000018#32 && t.readReg 5#5 == 0x00000077#32) = true := by decide

theorem test_ldhu :
    after ((vecMem 0x2140008B).writeReg 4#5 0x00000200#32) (fun t =>
      t.readReg 5#5 == 0x0000B3A2#32 && t.pc == 0x00000104#32) = true := by decide

theorem test_ldhio :
    after ((vecMem 0x214000AF).writeReg 4#5 0x00000200#32) (fun t =>
      t.readReg 5#5 == 0xFFFFB3A2#32 && t.pc == 0x00000104#32) = true := by decide

theorem test_ldhuio :
    after ((vecMem 0x214000AB).writeReg 4#5 0x00000200#32) (fun t =>
      t.readReg 5#5 == 0x0000B3A2#32 && t.pc == 0x00000104#32) = true := by decide

theorem test_ldw_negative_offset :
    after ((vecMem 0x217FFF17).writeReg 4#5 0x00000208#32) (fun t =>
      t.readReg 5#5 == 0xF7E6D5C4#32 && t.pc == 0x00000104#32) = true := by decide

theorem test_ldw_misaligned :
    after (((vecMem 0x21400097).writeReg 4#5 0x00000200#32).writeReg 5#5 0x00000077#32) (fun t =>
      t.badaddr == 0x00000202#32 && t.readReg 29#5 == 0x00000104#32 && t.pc == 0x00000080#32 &&
          t.exception == 0x00000018#32 && t.readReg 5#5 == 0x00000077#32) = true := by decide

theorem test_ldwio :
    after ((vecMem 0x21400137).writeReg 4#5 0x00000200#32) (fun t =>
      t.readReg 5#5 == 0xF7E6D5C4#32 && t.pc == 0x00000104#32) = true := by decide

theorem test_stb :
    after (((vecMem 0x21400045).writeReg 4#5 0x00000200#32).writeReg 5#5 0x12345678#32) (fun t =>
      t.pc == 0x00000104#32 && t.mem.value 0x200#32 .word == 0xB3A27880#32 &&
          t.mem.value 0x204#32 .word == 0xF7E6D5C4#32) = true := by decide

theorem test_stbio :
    after (((vecMem 0x21400065).writeReg 4#5 0x00000200#32).writeReg 5#5 0x12345678#32) (fun t =>
      t.pc == 0x00000104#32 && t.mem.value 0x200#32 .word == 0xB3A27880#32 &&
          t.mem.value 0x204#32 .word == 0xF7E6D5C4#32) = true := by decide

theorem test_sth :
    after (((vecMem 0x2140008D).writeReg 4#5 0x00000200#32).writeReg 5#5 0x12345678#32) (fun t =>
      t.pc == 0x00000104#32 && t.mem.value 0x200#32 .word == 0x56789180#32 &&
          t.mem.value 0x204#32 .word == 0xF7E6D5C4#32) = true := by decide

theorem test_sth_misaligned :
    after (((vecMem 0x214000CD).writeReg 4#5 0x00000200#32).writeReg 5#5 0x12345678#32) (fun t =>
      t.badaddr == 0x00000203#32 && t.readReg 29#5 == 0x00000104#32 && t.pc == 0x00000080#32 &&
          t.exception == 0x00000018#32 && t.mem.value 0x200#32 .word == 0xB3A29180#32) = true := by decide

theorem test_sthio :
    after (((vecMem 0x214000AD).writeReg 4#5 0x00000200#32).writeReg 5#5 0x12345678#32) (fun t =>
      t.pc == 0x00000104#32 && t.mem.value 0x200#32 .word == 0x56789180#32 &&
          t.mem.value 0x204#32 .word == 0xF7E6D5C4#32) = true := by decide

theorem test_stw_base_is_data :
    after ((vecMem 0x21000015).writeReg 4#5 0x00000200#32) (fun t =>
      t.pc == 0x00000104#32 && t.mem.value 0x200#32 .word == 0x00000200#32 &&
          t.mem.value 0x204#32 .word == 0xF7E6D5C4#32) = true := by decide

theorem test_stw_misaligned :
    after (((vecMem 0x21400055).writeReg 4#5 0x00000200#32).writeReg 5#5 0x12345678#32) (fun t =>
      t.badaddr == 0x00000201#32 && t.readReg 29#5 == 0x00000104#32 && t.pc == 0x00000080#32 &&
          t.exception == 0x00000018#32 && t.mem.value 0x200#32 .word == 0xB3A29180#32) = true := by decide

theorem test_stwio :
    after (((vecMem 0x21400135).writeReg 4#5 0x00000200#32).writeReg 5#5 0x12345678#32) (fun t =>
      t.pc == 0x00000104#32 && t.mem.value 0x200#32 .word == 0xB3A29180#32 &&
          t.mem.value 0x204#32 .word == 0x12345678#32) = true := by decide

theorem test_br_to_itself :
    after (vec 0x003FFF06) (fun t =>
      t.pc == 0x00000100#32) = true := by decide

theorem test_br_low_bits_ignored :
    after (vec 0x00000286) (fun t =>
      t.pc == 0x0000010C#32) = true := by decide

theorem test_beq_most_negative_offset :
    after ((vecAt 0x00010000#32 0x08600026).writeReg 1#5 0x00000009#32) (fun t =>
      t.pc == 0x00008004#32) = true := by decide

theorem test_beq_not_taken :
    after (((vec 0x08800226).writeReg 1#5 0x00000003#32).writeReg 2#5 0x00000004#32) (fun t =>
      t.pc == 0x00000104#32) = true := by decide

theorem test_bne_taken :
    after (((vec 0x0880021E).writeReg 1#5 0x00000003#32).writeReg 2#5 0x00000004#32) (fun t =>
      t.pc == 0x0000010C#32) = true := by decide

theorem test_bne_not_taken :
    after (((vec 0x0880021E).writeReg 1#5 0x00000003#32).writeReg 2#5 0x00000003#32) (fun t =>
      t.pc == 0x00000104#32) = true := by decide

theorem test_bge_signed :
    after (((vec 0x0880020E).writeReg 1#5 0xFFFFFFFF#32).writeReg 2#5 0x00000000#32) (fun t =>
      t.pc == 0x00000104#32) = true := by decide

theorem test_bge_equal :
    after (((vec 0x0880020E).writeReg 1#5 0x00000005#32).writeReg 2#5 0x00000005#32) (fun t =>
      t.pc == 0x0000010C#32) = true := by decide

theorem test_bgeu_unsigned :
    after (((vec 0x0880022E).writeReg 1#5 0xFFFFFFFF#32).writeReg 2#5 0x00000000#32) (fun t =>
      t.pc == 0x0000010C#32) = true := by decide

theorem test_bgeu_not_taken :
    after (((vec 0x0880022E).writeReg 1#5 0x00000000#32).writeReg 2#5 0x00000001#32) (fun t =>
      t.pc == 0x00000104#32) = true := by decide

theorem test_blt_signed :
    after (((vec 0x08800216).writeReg 1#5 0xFFFFFFFF#32).writeReg 2#5 0x00000000#32) (fun t =>
      t.pc == 0x0000010C#32) = true := by decide

theorem test_blt_equal :
    after (((vec 0x08800216).writeReg 1#5 0x00000005#32).writeReg 2#5 0x00000005#32) (fun t =>
      t.pc == 0x00000104#32) = true := by decide

theorem test_bltu_unsigned :
    after (((vec 0x08800236).writeReg 1#5 0xFFFFFFFF#32).writeReg 2#5 0x00000000#32) (fun t =>
      t.pc == 0x00000104#32) = true := by decide

theorem test_bltu_taken :
    after (((vec 0x08800236).writeReg 1#5 0x00000000#32).writeReg 2#5 0x00000001#32) (fun t =>
      t.pc == 0x0000010C#32) = true := by decide

theorem test_call_keeps_top_bits :
    after (vecAt 0xC0000000#32 0xFFFFFFC0) (fun t =>
      t.pc == 0xCFFFFFFC#32 && t.readReg 31#5 == 0xC0000004#32) = true := by decide

theorem test_jmpi_does_not_link :
    after ((vecAt 0x00000020#32 0x00010001).writeReg 31#5 0x00000055#32) (fun t =>
      t.pc == 0x00001000#32 && t.readReg 31#5 == 0x00000055#32) = true := by decide

theorem test_callr_target_read_before_link :
    after ((vecAt 0x00000020#32 0xF83EE83A).writeReg 31#5 0x00002000#32) (fun t =>
      t.pc == 0x00002000#32 && t.readReg 31#5 == 0x00000024#32) = true := by decide

theorem test_callr_misaligned :
    after (((vecAt 0x00000020#32 0x203EE83A).writeReg 4#5 0x00002002#32).writeReg 31#5 0x00000055#32) (fun t =>
      t.pc == 0x00000080#32 && t.readReg 31#5 == 0x00000055#32 && t.badaddr == 0x00002002#32 &&
          t.readReg 29#5 == 0x00000024#32 && t.exception == 0x0000001C#32) = true := by decide

theorem test_jmp :
    after ((vec 0x2000683A).writeReg 4#5 0x00002000#32) (fun t =>
      t.pc == 0x00002000#32) = true := by decide

theorem test_jmp_misaligned :
    after ((vec 0x2000683A).writeReg 4#5 0x00002001#32) (fun t =>
      t.pc == 0x00000080#32 && t.badaddr == 0x00002001#32 && t.readReg 29#5 == 0x00000104#32 &&
          t.exception == 0x0000001C#32) = true := by decide

theorem test_ret_ignores_field_A :
    after (((vec 0x2800283A).writeReg 31#5 0x00000024#32).writeReg 5#5 0x00000999#32) (fun t =>
      t.pc == 0x00000024#32) = true := by decide

theorem test_nextpc :
    after (vecAt 0x00000040#32 0x000AE03A) (fun t =>
      t.pc == 0x00000044#32 && t.readReg 5#5 == 0x00000044#32) = true := by decide

theorem test_trap_from_user_mode :
    after ({ vec 0x003B683A with
        status := 0x00000003#32 }) (fun t =>
      t.pc == 0x00000080#32 && t.readReg 29#5 == 0x00000104#32 && t.status == 0x00000004#32 &&
          t.estatus == 0x00000003#32 && t.exception == 0x0000000C#32) = true := by decide

theorem test_trap_nested :
    after ({ (vec 0x003B683A).writeReg 29#5 0x00000055#32 with
        status := 0x00000005#32, estatus := 0x00000001#32 }) (fun t =>
      t.pc == 0x00000080#32 && t.readReg 29#5 == 0x00000055#32 && t.status == 0x00000004#32 &&
          t.estatus == 0x00000001#32 && t.exception == 0x0000000C#32) = true := by decide

theorem test_break_saves_into_its_own_pair :
    after ({ vec 0x003DA03A with
        status := 0x00000001#32 }) (fun t =>
      t.pc == 0x00000080#32 && t.readReg 29#5 == 0x00000000#32 && t.readReg 30#5 == 0x00000104#32 &&
          t.status == 0x00000004#32 && t.estatus == 0x00000000#32 && t.bstatus == 0x00000001#32 &&
              t.exception == 0x0000007C#32) = true := by decide

theorem test_break_nested :
    after ({ (vec 0x003DA03A).writeReg 30#5 0x00000055#32 with
        status := 0x00000004#32, bstatus := 0x00000001#32 }) (fun t =>
      t.pc == 0x00000080#32 && t.readReg 30#5 == 0x00000055#32 && t.status == 0x00000004#32 &&
          t.bstatus == 0x00000001#32 && t.exception == 0x0000007C#32) = true := by decide

theorem test_eret_returns_to_user_mode :
    after ({ (vec 0xEF80083A).writeReg 29#5 0x00000200#32 with
        status := 0x00000004#32, estatus := 0x00000003#32 }) (fun t =>
      t.pc == 0x00000200#32 && t.status == 0x00000003#32 && t.estatus == 0x00000003#32) = true := by decide

theorem test_eret_in_user_mode :
    after ({ (vec 0xEF80083A).writeReg 29#5 0x00000200#32 with
        status := 0x00000002#32, estatus := 0x00000000#32 }) (fun t =>
      t.pc == 0x00000080#32 && t.readReg 29#5 == 0x00000104#32 && t.status == 0x00000004#32 &&
          t.estatus == 0x00000002#32 && t.exception == 0x00000028#32) = true := by decide

theorem test_bret_does_not_restore_status :
    after ({ (vec 0xF000483A).writeReg 30#5 0x00000200#32 with
        status := 0x00000004#32, bstatus := 0x00000001#32 }) (fun t =>
      t.pc == 0x00000200#32 && t.status == 0x00000004#32 && t.bstatus == 0x00000001#32) = true := by decide

theorem test_bret_in_user_mode :
    after ({ (vec 0xF000483A).writeReg 30#5 0x00000200#32 with
        status := 0x00000003#32, bstatus := 0x00000000#32 }) (fun t =>
      t.pc == 0x00000080#32 && t.readReg 29#5 == 0x00000104#32 && t.status == 0x00000004#32 &&
          t.estatus == 0x00000003#32 && t.exception == 0x00000028#32) = true := by decide

theorem test_rdctl_ipending :
    after ({ vec 0x0005313A with
        ienable := 0x0000000F#32, lines := 0x0000003C#32 }) (fun t =>
      t.pc == 0x00000104#32 && t.readReg 2#5 == 0x0000000C#32) = true := by decide

theorem test_rdctl_in_user_mode :
    after ({ (vec 0x0005303A).writeReg 2#5 0x00000077#32 with
        status := 0x00000002#32 }) (fun t =>
      t.pc == 0x00000080#32 && t.readReg 2#5 == 0x00000077#32 && t.readReg 29#5 == 0x00000104#32 &&
          t.status == 0x00000004#32 && t.estatus == 0x00000002#32 && t.exception == 0x00000014#32) = true := by decide

theorem test_wrctl_status :
    after ({ (vec 0x0801703A).writeReg 1#5 0xFFFFFFF9#32 with
        status := 0x00000004#32 }) (fun t =>
      t.pc == 0x00000104#32 && t.status == 0xFFFFFFF9#32) = true := by decide

theorem test_wrctl_pteaddr_low_bits :
    after ((vec 0x0801723A).writeReg 1#5 0xFFFFFFFF#32) (fun t =>
      t.pc == 0x00000104#32 && t.pteaddr == 0xFFFFFFFC#32) = true := by decide

theorem test_sync :
    after ({ (vec 0x0001B03A).writeReg 1#5 0x00000203#32 with
        status := 0x00000002#32 }) (fun t =>
      t.pc == 0x00000104#32 && t.status == 0x00000002#32) = true := by decide

theorem test_flushp :
    after ({ (vec 0x0000203A).writeReg 1#5 0x00000203#32 with
        status := 0x00000002#32 }) (fun t =>
      t.pc == 0x00000104#32 && t.status == 0x00000002#32) = true := by decide

theorem test_flushi :
    after ({ (vec 0x0800603A).writeReg 1#5 0x00000203#32 with
        status := 0x00000002#32 }) (fun t =>
      t.pc == 0x00000104#32 && t.status == 0x00000002#32) = true := by decide

theorem test_initi :
    after ({ (vec 0x0801483A).writeReg 1#5 0x00000203#32 with
        status := 0x00000002#32 }) (fun t =>
      t.pc == 0x00000104#32 && t.status == 0x00000002#32) = true := by decide

theorem test_flushd :
    after ({ (vec 0x0800003B).writeReg 1#5 0x00000203#32 with
        status := 0x00000002#32 }) (fun t =>
      t.pc == 0x00000104#32 && t.status == 0x00000002#32) = true := by decide

theorem test_flushda :
    after ({ (vec 0x0800001B).writeReg 1#5 0x00000203#32 with
        status := 0x00000002#32 }) (fun t =>
      t.pc == 0x00000104#32 && t.status == 0x00000002#32) = true := by decide

theorem test_initd :
    after ({ (vec 0x08000033).writeReg 1#5 0x00000203#32 with
        status := 0x00000002#32 }) (fun t =>
      t.pc == 0x00000104#32 && t.status == 0x00000002#32) = true := by decide

theorem test_initda :
    after ({ (vec 0x08000013).writeReg 1#5 0x00000203#32 with
        status := 0x00000002#32 }) (fun t =>
      t.pc == 0x00000104#32 && t.status == 0x00000002#32) = true := by decide

theorem test_custom :
    after ({ vec 0x00000032 with
        status := 0x00000001#32 }) (fun t =>
      t.pc == 0x00000080#32 && t.readReg 29#5 == 0x00000104#32 && t.status == 0x00000004#32 &&
          t.estatus == 0x00000001#32 && t.exception == 0x00000010#32) = true := by decide

theorem test_rdprs :
    after ({ vec 0x08800038 with
        status := 0x00000001#32 }) (fun t =>
      t.pc == 0x00000080#32 && t.readReg 29#5 == 0x00000104#32 && t.status == 0x00000004#32 &&
          t.estatus == 0x00000001#32 && t.exception == 0x00000010#32) = true := by decide

theorem test_wrprs :
    after ({ vec 0x0806A03A with
        status := 0x00000001#32 }) (fun t =>
      t.pc == 0x00000080#32 && t.readReg 29#5 == 0x00000104#32 && t.status == 0x00000004#32 &&
          t.estatus == 0x00000001#32 && t.exception == 0x00000010#32) = true := by decide

theorem test_illegal_primary :
    after ({ vec 0xFFFFFFFF with
        status := 0x00000001#32 }) (fun t =>
      t.pc == 0x00000080#32 && t.readReg 29#5 == 0x00000104#32 && t.status == 0x00000004#32 &&
          t.estatus == 0x00000001#32 && t.exception == 0x00000014#32) = true := by decide

theorem test_illegal_sub_opcode :
    after ({ vec 0x0001F83A with
        status := 0x00000001#32 }) (fun t =>
      t.pc == 0x00000080#32 && t.readReg 29#5 == 0x00000104#32 && t.status == 0x00000004#32 &&
          t.estatus == 0x00000001#32 && t.exception == 0x00000014#32) = true := by decide

theorem test_interrupt_wins_over_execution :
    after ({ ((vec 0x0887883A).writeReg 1#5 0x00000005#32).writeReg 2#5 0x00000007#32 with
        status := 0x00000001#32, ienable := 0x00000004#32, lines := 0x00000004#32 }) (fun t =>
      t.pc == 0x00000080#32 && t.readReg 3#5 == 0x00000000#32 && t.readReg 29#5 == 0x00000104#32 &&
          t.status == 0x00000004#32 && t.estatus == 0x00000001#32 && t.exception == 0x00000008#32) = true := by decide

theorem test_interrupt_needs_PIE :
    after ({ ((vec 0x0887883A).writeReg 1#5 0x00000005#32).writeReg 2#5 0x00000007#32 with
        status := 0x00000000#32, ienable := 0x00000004#32, lines := 0x00000004#32 }) (fun t =>
      t.pc == 0x00000104#32 && t.readReg 3#5 == 0x0000000C#32 && t.status == 0x00000000#32) = true := by decide

theorem test_interrupt_needs_its_enable :
    after ({ ((vec 0x0887883A).writeReg 1#5 0x00000005#32).writeReg 2#5 0x00000007#32 with
        status := 0x00000001#32, ienable := 0x00000002#32, lines := 0x00000004#32 }) (fun t =>
      t.pc == 0x00000104#32 && t.readReg 3#5 == 0x0000000C#32 && t.status == 0x00000001#32) = true := by decide

theorem test_interrupt_nested :
    after ({ (((vec 0x0887883A).writeReg 1#5 0x00000005#32).writeReg 2#5 0x00000007#32).writeReg 29#5 0x00000055#32 with
        status := 0x00000005#32, estatus := 0x00000001#32, ienable := 0x00000004#32, lines := 0x00000004#32 }) (fun t =>
      t.pc == 0x00000080#32 && t.readReg 3#5 == 0x00000000#32 && t.readReg 29#5 == 0x00000055#32 &&
          t.status == 0x00000004#32 && t.estatus == 0x00000001#32 && t.exception == 0x00000008#32) = true := by decide

/-- Part 2.1, division corners: `pc` moves on, no cause, no other register. -/
theorem test_div_by_zero_completes :
    after ((vec 0x0887283A).writeReg 1#5 7#32) (fun t =>
      t.pc == 0x104#32 && t.exception == 0#32 && t.readReg 1#5 == 7#32 && t.readReg 2#5 == 0#32) = true := by decide

theorem test_div_overflow_completes :
    after (((vec 0x0887283A).writeReg 1#5 0x80000000#32).writeReg 2#5 0xFFFFFFFF#32) (fun t =>
      t.pc == 0x104#32 && t.exception == 0#32 && t.readReg 1#5 == 0x80000000#32) = true := by decide

/-- Section 2.6: register 0 is general storage, and constant under `R0_HARDWIRED` (10_state.md R21). -/
theorem test_register_0 :
    after ((vec 0x0001883A).writeReg 0#5 3#32) (fun t => t.readReg 0#5 == 6#32) = true ∧
    after { vec 0x00000004 with cfg := { Config.default with r0Hardwired := true } } (fun t =>
      t.readReg 0#5 == 0#32 && t.pc == 0x104#32) = true := by decide

/-- A store to the next instruction is what the next fetch sees (20_memory.md R82). -/
theorem test_store_is_seen_by_the_next_fetch :
    ((((vec 0x21400115).writeReg 4#5 0x100#32).writeReg 5#5 0x0001883A#32).mem.read 0x104 = 0#8) ∧
    after (((vec 0x21400115).writeReg 4#5 0x100#32).writeReg 5#5 0x0001883A#32) (fun t =>
      t.fetchWord == .word 0x0001883A#32) = true := by decide

/-! ### The MMU (95_test_vectors.md 2.8, 2.9): the TLB of the vectors has 16 ways and 16 sets -/

/-- A TLB entry with neither C nor G. -/
def entry (vpn : BitVec 20) (pid : BitVec 14) (pfn : BitVec 20) (r w x : Bool) : TlbEntry :=
  { vpn := vpn, pid := pid, pfn := pfn, r := r, w := w, x := x, c := false, g := false }

/-- `tlb[way][set] <- e`. -/
def install (way set : Nat) (e : TlbEntry) (s : State) : State :=
    { s with tlb := s.tlb.set (way * s.cfg.tlbSets + set) e }

/-- A word of physical memory. -/
def poke (pa v : Word) (s : State) : State := { s with mem := s.mem.store pa .word v }

/-- Section 2.8: the instruction at 0xC0000000, an unmatchable TLB. -/
def mmuVec (w : Word) : State := poke 0xC0000000#32 w State.resetMmu

/-- M8, M10, M16: user mode at 0x2000, mapped executable to 0xC0005000. -/
def mmuUser (w : Word) : State :=
  poke 0xC0005000#32 w
    (install 0 2 (entry 2#20 0#14 0xC0005#20 true true true) { State.resetMmu with pc := 0x2000#32, status := 2#32 })

theorem test_M1_fast_miss :
    after { (mmuVec 0x21400017#32).writeReg 4#5 0x1000#32 with status := 1#32 } (fun t =>
      t.pc == 0xC0000100#32 && t.readReg 29#5 == 0xC0000004#32 && t.status == 4#32 && t.estatus == 1#32 &&
      t.exception == 0x30#32 && t.pteaddr == 4#32 && t.tlbmisc == 0x00040001#32 && t.badaddr == 0x1000#32) = true := by
  decide +kernel

theorem test_M2_double_miss :
    after { ((mmuVec 0x21400017#32).writeReg 4#5 0x1000#32).writeReg 29#5 0x55#32 with
        status := 5#32, estatus := 1#32, tlbmisc := 0x00040000#32 } (fun t =>
      t.pc == 0xC0000020#32 && t.readReg 29#5 == 0x55#32 && t.status == 4#32 && t.estatus == 1#32 &&
      t.tlbmisc == 0x00040009#32 && t.badaddr == 0x1000#32) = true := by decide +kernel

theorem test_M3_load_through_the_TLB :
    after (poke 0xC0002004#32 0xDEADBEEF#32 (install 7 1 (entry 1#20 0#14 0xC0002#20 true false false)
        ((mmuVec 0x21400017#32).writeReg 4#5 0x1004#32))) (fun t =>
      t.pc == 0xC0000004#32 && t.readReg 5#5 == 0xDEADBEEF#32 && t.status == 0#32) = true := by decide +kernel

theorem test_M4_write_permission :
    after { install 7 1 (entry 1#20 0#14 0xC0002#20 true false false) ((mmuVec 0x21400015#32).writeReg 4#5 0x1004#32) with
        pteaddr := 0xFFC00000#32 } (fun t =>
      t.pc == 0xC0000020#32 && t.exception == 0x3C#32 && t.pteaddr == 0xFFC00000#32 && t.tlbmisc == 0x00040001#32 &&
      t.badaddr == 0x1004#32 && t.mem.read 0xC0002004 == 0#8) = true := by decide +kernel

theorem test_M6_execute_permission :
    after (install 0 2 (entry 2#20 0#14 0xC0005#20 true true false) { State.resetMmu with pc := 0x2000#32 }) (fun t =>
      t.pc == 0xC0000020#32 && t.readReg 29#5 == 0x2004#32 && t.exception == 0x34#32 && t.tlbmisc == 0x00040000#32 &&
      t.badaddr == 0x2000#32) = true := by decide +kernel

theorem test_M8_supervisor_data_address :
    after ((mmuUser 0x21400017#32).writeReg 4#5 0xC0000000#32) (fun t =>
      t.pc == 0xC0000020#32 && t.readReg 29#5 == 0x2004#32 && t.estatus == 2#32 && t.exception == 0x2C#32 &&
      t.tlbmisc == 0#32 && t.badaddr == 0xC0000000#32) = true := by decide +kernel

/-- M9: the fetch after the jump. -/
theorem test_M9_supervisor_instruction_address :
    after { mmuUser 0#32 with pc := 0xC0000000#32 } (fun t =>
      t.pc == 0xC0000020#32 && t.readReg 29#5 == 0xC0000004#32 && t.estatus == 2#32 && t.exception == 0x24#32 &&
      t.badaddr == 0xC0000000#32) = true := by decide +kernel

theorem test_M10_supervisor_check_before_alignment :
    after ((mmuUser 0x21400017#32).writeReg 4#5 0xC0000001#32) (fun t =>
      t.exception == 0x2C#32 && t.badaddr == 0xC0000001#32) = true := by decide +kernel

theorem test_M11_alignment_before_the_TLB :
    after ((mmuVec 0x21400017#32).writeReg 4#5 0x1001#32) (fun t =>
      t.exception == 0x18#32 && t.pteaddr == 0#32 && t.tlbmisc == 0#32 && t.badaddr == 0x1001#32) = true := by
  decide +kernel

theorem test_M12_process_id_must_match :
    after { install 7 1 (entry 1#20 5#14 0xC0002#20 true false false) ((mmuVec 0x21400017#32).writeReg 4#5 0x1004#32) with
        tlbmisc := 0x60#32 } (fun t =>
      t.pc == 0xC0000100#32 && t.exception == 0x30#32 && t.tlbmisc == 0x00040061#32) = true := by decide +kernel

theorem test_M13_global_matches_any_process_id :
    after (poke 0xC0002004#32 0xDEADBEEF#32 { install 7 1 { entry 1#20 5#14 0xC0002#20 true false false with g := true }
        ((mmuVec 0x21400017#32).writeReg 4#5 0x1004#32) with tlbmisc := 0x60#32 }) (fun t =>
      t.readReg 5#5 == 0xDEADBEEF#32 && t.tlbmisc == 0x60#32) = true := by decide +kernel

theorem test_M16_kernel_virtual_band_is_not_supervisor_checked :
    after ((mmuUser 0x21400017#32).writeReg 4#5 0x80001008#32) (fun t =>
      t.pc == 0xC0000100#32 && t.readReg 29#5 == 0x2004#32 && t.exception == 0x30#32 && t.badaddr == 0x80001008#32)
      = true := by decide +kernel

/-- T1, its last instruction. -/
theorem test_T1_tlb_write :
    after { (mmuVec 0x1801727A#32).writeReg 3#5 0x01FC0002#32 with
        pteaddr := 0x00400004#32, tlbmisc := 0x00340050#32 } (fun t =>
      t.tlbacc == 0x01FC0002#32 && t.tlbmisc == 0x00440050#32 &&
      t.tlbEntry 3 1 == { vpn := 1#20, pid := 5#14, pfn := 0xC0002#20, c := true, r := true, w := true, x := true, g := true })
      = true := by decide +kernel

/-- T3, its last instruction. -/
theorem test_T3_tlb_read :
    after { install 11 1 { entry 0x11#20 9#14 0xC0007#20 true false true with c := true }
        ((mmuVec 0x100172BA#32).writeReg 2#5 0x00B80000#32) with pteaddr := 0x44#32, tlbacc := 0xFE000000#32 } (fun t =>
      t.pteaddr == 0x44#32 && t.tlbacc == 0xFFAC0007#32 && t.tlbmisc == 0x00B00090#32) = true := by decide +kernel

/-- T4, its last instruction: WAY wraps. -/
theorem test_T4_way_wraps :
    after { (mmuVec 0x1801727A#32).writeReg 3#5 0x00800009#32 with pteaddr := 8#32, tlbmisc := 0x00F40000#32 } (fun t =>
      t.tlbmisc == 0x00040000#32 && t.tlbEntry 15 2 == entry 2#20 0#14 9#20 true false false) = true
          := by decide +kernel

/-- T5: with no MMU `tlbacc` is plain storage. -/
theorem test_T5_no_mmu :
    after { (vec 0x1801727A).writeReg 3#5 0x01FC0002#32 with tlbmisc := 0x00340050#32 } (fun t =>
      t.tlbacc == 0x01FC0002#32 && t.tlbmisc == 0x00340050#32 && t.tlb == []) = true := by decide

/-! ### Lines, breakpoints, the stop flag (95_test_vectors.md 2.10, 2.11) -/

/-- Section 2.11's state. -/
def boundary : State :=
  { ((vec 0x0887883A).writeReg 1#5 5#32).writeReg 2#5 7#32 with status := 1#32, ienable := 4#32 }

theorem test_breakpoint_dispatches :
    after { boundary with breakpoints := [0x100#32] } (fun t =>
      t.bstatus == 1#32 && t.readReg 30#5 == 0x104#32 && t.status == 4#32 && t.exception == 0x7C#32 &&
          t.pc == 0x80#32 &&
      t.readReg 3#5 == 0#32 && t.estatus == 0#32 && t.readReg 29#5 == 0#32 && t.run == .returned .hitBreakpoint)
      = true := by decide

theorem test_breakpoint_left_to_the_host :
    after { boundary with breakpoints := [0x100#32], cfg := { Config.default with hostInterceptsDebug := true } }
        (fun t =>
      t.pc == 0x100#32 && t.status == 1#32 && t.bstatus == 0#32 && t.readReg 30#5 == 0#32 &&
      t.run == .returned .hitBreakpoint) = true := by decide

theorem test_interrupt_before_breakpoint :
    after { boundary with breakpoints := [0x100#32], lines := 4#32 } (fun t =>
      t.estatus == 1#32 && t.readReg 29#5 == 0x104#32 && t.exception == 8#32 && t.pc == 0x80#32 &&
      t.run == .running) = true := by decide

theorem test_stop_request_before_interrupt :
    after { boundary with breakpoints := [0x100#32], lines := 4#32, stopFlag := true } (fun t =>
      t.pc == 0x100#32 && t.status == 1#32 && t.exception == 0#32 && t.run == .returned .haltedByRequest) = true := by
  decide

theorem test_no_event_at_another_breakpoint :
    after { boundary with breakpoints := [0x104#32] } (fun t =>
      t.readReg 3#5 == 12#32 && t.pc == 0x104#32 && t.run == .running) = true := by decide

theorem test_set_line :
    (applyLive (.setLine 5 true) State.reset).lines = 0x20#32 ∧
    (applyLive (.setLine 5 false) (applyLive (.setLine 5 true) State.reset)).lines = 0#32 ∧
    (applyLive (.setLine 31 true) (applyLive (.setLine 0 true) State.reset)).lines = 0x80000001#32 := by decide

/-- 95_test_vectors.md S6. -/
theorem test_interrupt_gating :
    { State.reset with ienable := 1#32, lines := 1#32, status := 1#32 }.asserted = true ∧
    { State.reset with ienable := 1#32, lines := 1#32 }.asserted = false ∧
    { State.reset with ienable := 1#32, status := 1#32 }.asserted = false := by decide

/-- What a run returned with, tested. -/
def back (r : RunEnd) (p : ReturnReason → State → Bool) : Bool :=
  match r with
  | .returned why t => p why t
  | .stuck _ => false
  | .refused _ => false

/-- The budget of a single step ends inside a block of 8, and the next run starts at a block boundary. -/
theorem test_single_step_returns :
    back (singleStep { vec 0x0887883A with cfg := { Config.default with blockBudgetLess1 := 7 } }) (fun why t =>
      why == .exitedAtBudget && t.pc == 0x104#32 && t.blockCount == 1 && t.stopped && t.isBlockBoundary) = true
          := by decide

/-- 10_state.md R48, the rows of memory and the host. -/
theorem test_core_reset :
    ({ boundary with breakpoints := [8#32], stopFlag := true, lines := 4#32, run := .running }.coreReset []).mem
      = boundary.mem ∧
    { boundary with breakpoints := [8#32], lines := 4#32 }.coreReset [] =
      { State.reset with mem := boundary.mem, breakpoints := [8#32] } := by decide

/-- 48_engine_step.md R302: the host waits for a stopped core, the device layer does not. -/
theorem test_host_waits_for_a_stopped_core :
    applyHost (.writePc 8#32) { boundary with run := .running } = none ∧
    (applyHost (.writePc 8#32) boundary).any (fun t => t.pc == 8#32) = true ∧
    back (runUntil 1 [[.setLine 2 true]] boundary) (fun why t => why == .exitedAtBudget && t.pc == 0x80#32) = true := by
  decide

/-- 48_engine_step.md R295(c): PAGE_BITS is a parameter, and pages of 8 bytes end a block at 0x108. -/
theorem test_page_bits :
    after { vecAt 0x104#32 0x0887883A with cfg := { Config.default with pageBits := 3, blockBudgetLess1 := 7 } }
        (fun t =>
      t.pc == 0x108#32 && t.isBlockBoundary) = true ∧
    after { vecAt 0x104#32 0x0887883A with cfg := { Config.default with blockBudgetLess1 := 7 } } (fun t =>
      t.pc == 0x108#32 && !t.isBlockBoundary) = true := by decide

/-! ### Memory -/

theorem test_memory_keeps_its_form :
    Memory.write (Memory.write [] 5 1#8) 3 2#8 = [(3, 2#8), (5, 1#8)] ∧
    Memory.write [(3, 2#8), (5, 1#8)] 3 0#8 = [(5, 1#8)] ∧ Memory.wf [(3, 2#8), (5, 1#8)] = true ∧
    Memory.wf [(5, 1#8), (3, 2#8)] = false ∧ Memory.wf [(3, 0#8)] = false := by decide

/-- The address space wraps: a word at 0xFFFFFFFE ends at address 1. -/
theorem test_byte_addresses_wrap : byteAddress 0xFFFFFFFE#32 2 = 0 ∧ byteAddress 0xFFFFFFFE#32 3 = 1 := by decide

/-! ### Witnesses: for each obligation with hypotheses, states and operands that meet them,
    clause by clause. An obligation
not named here has none (O1, O2, O6, O22, O23, O40), or only that a word has an OP or an OPX, whose witnesses are first
(O11, O12, O14 to O19, O31, O33, O39). -/

/-- O3 and every rule with a primary opcode: each of the 64 values of OP has a word, whatever the other fields hold. -/
theorem witness_primary_opcodes : ∀ op : BitVec 6, fieldOp (encodeI op 31#5 31#5 0xFFFF#16) = op := by decide

/-- O4 and every rule with a sub-opcode: each of the 64 values of OPX has a word. -/
theorem witness_sub_opcodes : ∀ opx : BitVec 6, fieldOp (encodeR opx 31#5 31#5 31#5 31#5) = 0x3A#6 ∧
    fieldOpx (encodeR opx 31#5 31#5 31#5 31#5) = opx := by decide

/-- O5: two different words that agree in OP and OPX; a `ret`, an `eret` and a `bret` with other fields. -/
theorem witness_UnusedFieldsAreIgnored :
    fieldOp 0xF800283A#32 = fieldOp 0x2800283A#32 ∧ fieldOpx 0xF800283A#32 = fieldOpx 0x2800283A#32 ∧
    fieldOp 0x2800283A#32 = 0x3A#6 ∧ fieldOpx 0x2800283A#32 = 0x05#6 ∧
    fieldOp 0x0000083A#32 = 0x3A#6 ∧ fieldOpx 0x0000083A#32 = 0x01#6 ∧
    fieldOp 0x0000483A#32 = 0x3A#6 ∧ fieldOpx 0x0000483A#32 = 0x09#6 := by decide

/-- O7, O10: a state ready to execute, with a word that decodes; the last word of the address space. -/
theorem witness_StepRunsTheDecodedInstruction :
    ReadyToExecute (vecAt 0xFFFFFFFC#32 0x0887883A) ∧
    (vecAt 0xFFFFFFFC#32 0x0887883A).translate (vecAt 0xFFFFFFFC#32 0x0887883A).pc .fetch = .ok 0xFFFFFFFC#32 ∧
    (vecAt 0xFFFFFFFC#32 0x0887883A).backsAccess 0xFFFFFFFC#32 .word = true ∧
    (decode ((vecAt 0xFFFFFFFC#32 0x0887883A).mem.value 0xFFFFFFFC#32 .word)).instr? = some (.add 3#5 1#5 2#5) ∧
    (vecAt 0xFFFFFFFC#32 0x0887883A).mem.wf = true :=
  ⟨⟨by decide, by decide, by decide, by decide⟩, rfl, by decide, by decide, by decide⟩

/-- O8: a state ready to execute an illegal word. -/
theorem witness_IllegalWordsRaiseIllegalInstruction :
    ReadyToExecute (vec 0xFFFFFFFF) ∧ (vec 0xFFFFFFFF).translate (vec 0xFFFFFFFF).pc .fetch = .ok 0x100#32 ∧
    (vec 0xFFFFFFFF).backsAccess 0x100#32 .word = true ∧
    (decode ((vec 0xFFFFFFFF).mem.value 0x100#32 .word)).instr? = none :=
  ⟨⟨by decide, by decide, by decide, by decide⟩, rfl, by decide, by decide⟩

/-- Two ways and four sets, so that the kernel is quick. -/
def smallMmu : Config := { Config.withMmu with tlbWaysLog2 := 1, tlbSetsLog2 := 2 }

/-- The state after reset with the small TLB. -/
def small : State := State.resetWith smallMmu (List.replicate 8 TlbEntry.unmatchable)

/-- `small` in user mode. -/
def smallUser : State := { small with status := 2#32 }

/-- `small` with one entry for page 1: readable, neither writable nor executable. -/
def smallMapped : State := install 1 1 (entry 1#20 0#14 0xC0002#20 true false false) small

/-- `small` with one entry for page 1: writable and executable, not readable. -/
def smallWritable : State := install 0 1 (entry 1#20 0#14 0xC0002#20 false true true) small

/-- O9: a fetch that is backed is O7's; one each that is rejected for each reason. -/
theorem witness_FetchReadsTranslatesAndFaults :
    (ReadyToExecute smallUser ∧ smallUser.translate smallUser.pc .fetch = .error .supervisor) ∧
    (ReadyToExecute { small with pc := 0x3000#32 } ∧
      ({ small with pc := 0x3000#32 } : State).translate 0x3000#32 .fetch = .error .tlbMiss) ∧
    (ReadyToExecute { smallMapped with pc := 0x1000#32 } ∧
      ({ smallMapped with pc := 0x1000#32 } : State).translate 0x1000#32 .fetch = .error .tlbPermission) :=
  ⟨⟨⟨by decide, by decide, by decide, by decide⟩, rfl⟩, ⟨⟨by decide, by decide, by decide, by decide⟩, rfl⟩,
    ⟨⟨by decide, by decide, by decide, by decide⟩, rfl⟩⟩

/-- O13: operands in each corner and next to it. -/
theorem witness_DivideResults :
    (0#32).toInt = 0 ∧ (0x80000000#32).toInt = -2 ^ 31 ∧ (0xFFFFFFFF#32).toInt = -1 ∧ (0x80000001#32).toInt ≠ -2 ^ 31 ∧
    (0xFFFFFFFE#32).toInt ≠ -1 := by decide

/-- O20, O21: accesses that pass at the last byte, halfword and word of the address space; the misaligned ones. -/
theorem witness_LoadAndStoreResults :
    State.reset.dataAddress (State.reset.effectiveAddress 1#5 0xFFFF#16) .byte .read = .ok 0xFFFFFFFF#32 ∧
    State.reset.dataAddress (State.reset.effectiveAddress 1#5 0xFFFE#16) .half .read = .ok 0xFFFFFFFE#32 ∧
    State.reset.dataAddress (State.reset.effectiveAddress 1#5 0xFFFC#16) .word .read = .ok 0xFFFFFFFC#32 ∧
    State.reset.dataAddress (State.reset.effectiveAddress 1#5 0xFFFF#16) .byte .write = .ok 0xFFFFFFFF#32 ∧
    State.reset.dataAddress (State.reset.effectiveAddress 1#5 0xFFFE#16) .half .write = .ok 0xFFFFFFFE#32 ∧
    State.reset.dataAddress (State.reset.effectiveAddress 1#5 0xFFFC#16) .word .write = .ok 0xFFFFFFFC#32 ∧
    State.reset.backsAccess 0xFFFFFFFF#32 .byte = true ∧ State.reset.backsAccess 0xFFFFFFFE#32 .half = true ∧
    State.reset.backsAccess 0xFFFFFFFC#32 .word = true ∧ State.reset.mem.wf = true ∧
    (0xFFFFFFFF#32).toNat % 2 ≠ 0 ∧ (0xFFFFFFFE#32).toNat % 4 ≠ 0 ∧ (1#32).toNat % 4 ≠ 0 ∧
    State.reset.supervisorViolation 0xFFFFFFFF#32 = false ∧ smallUser.supervisorViolation 0xBFFFFFFF#32 = false := by
  decide

/-- O24: each rejection, of a load and of a store. -/
theorem witness_RejectedDataAccessTakesItsException :
    smallUser.dataAddress 0xC0000000#32 .byte .read = .error .supervisor ∧
    smallUser.dataAddress 0xFFFFFFFF#32 .word .write = .error .supervisor ∧
    State.reset.dataAddress 1#32 .half .read = .error .misaligned ∧
    State.reset.dataAddress 3#32 .word .write = .error .misaligned ∧
    small.dataAddress 0xBFFFFFFC#32 .word .read = .error .tlbMiss ∧ small.dataAddress 0#32 .byte .write
        = .error .tlbMiss ∧
    smallWritable.dataAddress 0x1000#32 .half .read = .error .tlbPermission ∧
    smallMapped.dataAddress 0x1FFC#32 .word .write = .error .tlbPermission := by decide

/-- O25: an access whose last byte alone is unbacked. -/
theorem witness_UnbackedAccessIsStuck :
    ({ State.reset with cfg := { Config.default with backed := [⟨0, 7⟩] } } : State).dataAddress 4#32 .word .read
        = .ok 4#32 ∧
    ({ State.reset with cfg := { Config.default with backed := [⟨0, 7⟩] } } : State).dataAddress 4#32 .word .write
        = .ok 4#32 ∧
    ({ State.reset with cfg := { Config.default with backed := [⟨0, 7⟩] } } : State).backsAccess 4#32 .word = false
        := by
  decide

/-- O25: a fetch whose last byte alone is unbacked. -/
theorem witness_UnbackedFetchIsStuck :
    ReadyToExecute { State.reset with cfg := { Config.default with backed := [⟨0, 3⟩] } } ∧
    ({ State.reset with cfg := { Config.default with backed := [⟨0, 3⟩] } } : State).translate 0#32 .fetch = .ok 0#32 ∧
    ({ State.reset with cfg := { Config.default with backed := [⟨0, 3⟩] } } : State).backsAccess 0#32 .word = false :=
  ⟨⟨by decide, by decide, by decide, by decide⟩, rfl, by decide⟩

/-- O26: each band, at its edges. -/
theorem witness_TranslationByBand :
    State.reset.cfg.mmuPresent = false ∧ small.cfg.mmuPresent = true ∧ small.user = false ∧ smallUser.cfg.mmuPresent
        = true ∧
    smallUser.user = true ∧ small.cfg.kernelPhysBase.toNat ≤ (0xC0000000#32).toNat ∧
    (0xBFFFFFFF#32).toNat < small.cfg.kernelPhysBase.toNat := by decide

/-- O27: a page no way matches, a page one way matches, a page two ways match. -/
theorem witness_TlbLookupUsesAMatchingWay :
    small.matchingWays 1#20 = [] ∧ smallMapped.matchingWays 1#20 = [1] ∧
    (install 0 1 { entry 1#20 3#14 0xC0002#20 true true true with g := true } smallMapped).matchingWays 1#20 = [0, 1]
        := by
  decide

theorem small_inv : MachineInv small := ⟨by decide, by decide, by decide, by decide, by decide, by decide, .inl rfl⟩

/-- O28, O29, O60: the invariant, an MMU, supervisor mode; WE and RD 0 and 1. -/
theorem witness_TlbProtocols :
    (MachineInv small ∧ small.cfg.mmuPresent = true ∧ small.user = false ∧ small.tlbmisc.getLsbD 18 = false ∧
      (small.readReg 1#5).getLsbD 19 = false) ∧
    (MachineInv { small with tlbmisc := 0x00140000#32 } ∧
      ({ small with tlbmisc := 0x00140000#32 } : State).tlbmisc.getLsbD 18 = true) ∧
    ((small.writeReg 1#5 0x00080000#32).readReg 1#5).getLsbD 19 = true ∧ (small.writeReg 1#5 0x00080000#32).user
        = false :=
  ⟨⟨small_inv, rfl, rfl, rfl, rfl⟩,
    ⟨⟨by decide, by decide, by decide, by decide, by decide, by decide, .inl rfl⟩, rfl⟩, by decide, by decide⟩

/-- O30: an aligned `pc`, the last one. O32, O35, O36: targets that are and are not multiples of 4. -/
theorem witness_targets :
    (0xFFFFFFFC#32).toNat % 4 = 0 ∧ ((State.reset.writeReg 31#5 0xFFFFFFFC#32).readReg 31#5).toNat % 4 = 0 ∧
    ((State.reset.writeReg 31#5 1#32).readReg 31#5).toNat % 4 ≠ 0 ∧
    ((State.reset.writeReg 31#5 2#32).readReg 31#5).toNat % 4 ≠ 0 ∧
    ((State.reset.writeReg 29#5 3#32).readReg 29#5).toNat % 4 ≠ 0 ∧
    ((State.reset.writeReg 30#5 3#32).readReg 30#5).toNat % 4 ≠ 0 ∧ (State.reset.readReg 29#5).toNat % 4 = 0 ∧
    (State.reset.readReg 30#5).toNat % 4 = 0 := by decide

/-- O34 to O38: both settings of the two parameters, both modes, a control register outside the TLB protocols with an
MMU and one of theirs without. -/
theorem witness_modes :
    State.reset.cfg.hostInterceptsDebug = false ∧
    { Config.default with hostInterceptsDebug := true }.hostInterceptsDebug = true ∧ State.reset.user = false ∧
    smallUser.user = true ∧ smallUser.cfg.eretBretPrivileged = true ∧
    { Config.default with eretBretPrivileged := false }.eretBretPrivileged = false ∧ (8#5 ≠ 9#5 ∧ 8#5 ≠ 10#5) ∧
    (11#5 ≠ 9#5 ∧ 11#5 ≠ 10#5) ∧ small.user = false := by decide

/-- O37, its last clause: the invariant. -/
theorem witness_RdctlReadsAControlRegister : MachineInv small := small_inv

/-- O41 to O43: first entry and nested, an aligned `pc` whose link wraps. -/
theorem witness_entries :
    State.reset.eh = false ∧ { State.reset with status := 4#32 }.eh = true ∧ (0xFFFFFFFC#32).toNat % 4 = 0 ∧
    Cause.interrupt ≠ .debugBreak ∧ Cause.interrupt.tlbRow = .none ∧ (6#5 ≠ 0#5 ∧ 6#5 ≠ 1#5) := by decide

/-- O43: a later state that differs from the dispatched one and keeps what its first two clauses ask. -/
theorem witness_ReturnAfterFirstEntryRestoresTheContext :
    ((dispatch .trap 0x100#32 boundary).writeReg 5#5 9#32).estatus = (dispatch .trap 0x100#32 boundary).estatus ∧
    ((dispatch .trap 0x100#32 boundary).writeReg 5#5 9#32).readReg 29#5 =
        (dispatch .trap 0x100#32 boundary).readReg 29#5 ∧
    ((dispatch .trap 0x100#32 boundary).writeReg 5#5 9#32).user = false ∧
    ((dispatch .debugBreak 0x100#32 boundary).writeReg 5#5 9#32).readReg 30#5
      = (dispatch .debugBreak 0x100#32 boundary).readReg 30#5 ∧
    ((dispatch .debugBreak 0x100#32 boundary).writeReg 5#5 9#32).user = false ∧ boundary.eh = false ∧
    boundary.pc = 0x100#32 := by decide

/-- O44, its last clause: a line already at the level it is set to. -/
theorem witness_LinesAndAssertion :
    State.reset.lines.getLsbD 31 = false ∧ { State.reset with lines := 1#32 }.lines.getLsbD 0 = true := by decide

/-- O45: an asserted interrupt at a block boundary, and one that is taken; nothing asserted,
    with a breakpoint and without; a
step with nothing asserted after which CAUSE is 2, written by `wrctl exception`. -/
theorem witness_AssertedInterruptIsDelivered :
    { boundary with lines := 4#32 }.refusal = none ∧
    ({ boundary with lines := 4#32 }.isBlockBoundary && { boundary with lines := 4#32 }.stopFlag) = false ∧
    { boundary with lines := 4#32 }.asserted = true ∧ { boundary with lines := 4#32 }.isBlockBoundary = true ∧
    { boundary with lines := 4#32 }.takesInterrupt = true ∧ boundary.asserted = false ∧ boundary.refusal = none ∧
    (boundary.isBlockBoundary && boundary.stopFlag) = false ∧
    ({ boundary with breakpoints := [0x100#32] } : State).asserted = false ∧
    ({ boundary with breakpoints := [0x100#32] } : State).refusal = none ∧
        ((vec 0x080171FA).writeReg 1#5 8#32).asserted = false ∧
    after ((vec 0x080171FA).writeReg 1#5 8#32) (fun t => t.exception.extractLsb' 2 5 == 2#5) = true := by decide

/-- O46: a stop request at a block boundary. -/
theorem witness_StopRequestReturnsAtABlockBoundary :
    { boundary with stopFlag := true }.refusal = none ∧ { boundary with stopFlag := true }.isBlockBoundary = true ∧
    { boundary with stopFlag := true }.stopFlag = true := by decide

/-- O47: a breakpoint, under both settings of the parameter. -/
theorem witness_BreakpointMatchIsADebugEvent :
    { boundary with breakpoints := [0x100#32] }.refusal = none ∧
    ({ boundary with breakpoints := [0x100#32] }.isBlockBoundary && boundary.stopFlag) = false ∧
    { boundary with breakpoints := [0x100#32] }.takesInterrupt = false ∧
    (0x100#32) ∈ { boundary with breakpoints := [0x100#32] }.breakpoints ∧ boundary.cfg.hostInterceptsDebug = false
        := by
  decide

/-- O48: a state of each kind that is refused, and one that is not. -/
theorem witness_StepRefusesStatesWithoutMeaning :
    step { State.reset with status := 6#32 } = .refused .undefinedMode ∧
    step { State.reset with pc := 2#32 } = .refused .misalignedPc ∧
    step { State.reset with cfg := { Config.default with resetAddr := 2#32 } } = .refused .invalidConfiguration ∧
    step { State.reset with cfg := { Config.default with exceptionAddr := 1#32 } } = .refused .invalidConfiguration ∧
    step { State.reset with cfg := { Config.default with fastTlbMissAddr := 3#32 } } = .refused .invalidConfiguration ∧
    after State.reset (fun _ => true) = true := ⟨rfl, rfl, rfl, rfl, rfl, by decide⟩

/-- O49, O52, O53, O56: a state with the invariant that steps. -/
theorem witness_StepKeepsTheMachineInvariant :
    MachineInv State.reset ∧ after State.reset (fun _ => true) = true ∧ State.reset.pc.toNat % 4 = 0 :=
  ⟨⟨by decide, by decide, by decide, by decide, by decide, by decide, .inl rfl⟩, by decide, by decide⟩

/-- O50: a valid configuration and a TLB of its size. -/
theorem witness_ResetMeetsTheInvariantAndTheTable :
    validConfig smallMmu = true ∧ (List.replicate 8 TlbEntry.unmatchable).length = smallMmu.tlbSize := by decide

/-- O51: the two moves with a condition, and a core that is stopped. -/
theorem witness_MovesBetweenStepsKeepTheInvariant :
    (HostMove.writePc 0xFFFFFFFC#32).wellFormed small.cfg = true ∧ (HostMove.writePc 1#32).wellFormed small.cfg
        = false ∧
    (HostMove.resetCore (List.replicate 8 TlbEntry.unmatchable)).wellFormed small.cfg = true ∧ small.stopped = true ∧
    MachineInv small := ⟨by decide, by decide, by decide, by decide, small_inv⟩

/-- O53: instructions that complete, for each part: a store, a TLB write, `wrctl status`, `eret`,
    a first entry of a trap and of a
`break`, a `break` left to the host, a TLB read, a TLB miss, a misaligned access. -/
theorem witness_OnlyItsWritersChangeEachPartOfTheState :
    completes (.stw 2#5 1#5 0#16) boundary (fun t => t.badaddr == 5#32 && t.mem.read 5 == 0#8) = true ∧
    completes (.stb 2#5 1#5 0#16) boundary (fun t => t.mem.read 5 == 7#8) = true ∧
    completes (.wrctl 9#5 1#5) { small with tlbmisc := 0x00040000#32 } (fun t => t.tlb != small.tlb) = true ∧
    completes (.wrctl 0#5 1#5) boundary (fun t => t.status == 5#32) = true ∧
    completes .eret { boundary with estatus := 8#32 } (fun t => t.status == 8#32) = true ∧
    completes (.trap 0#5) boundary (fun t => t.estatus == 1#32 && t.readReg 29#5 == 0x104#32) = true ∧
    completes (.brk 0#5) boundary (fun t => t.bstatus == 1#32 && t.readReg 30#5 == 0x104#32) = true ∧
    completes (.brk 0#5) { boundary with cfg := { Config.default with hostInterceptsDebug := true } } (fun t =>
      t.pc == 0x100#32) = true ∧
    completes (.wrctl 10#5 1#5) (smallMapped.writeReg 1#5 0x00180000#32) (fun t => t.pteaddr != smallMapped.pteaddr)
        = true ∧
    completes (.ldb 3#5 1#5 0#16) (small.writeReg 1#5 0x5000#32) (fun t => t.pteaddr == 0x14#32 &&
        t.badaddr == 0x5000#32) = true ∧
    boundary.pc.toNat % 4 = 0 ∧ small.pc.toNat % 4 = 0 := by decide

/-- O54: a step from user mode of each kind: one that stays, one that enters a handler, an unprivileged `eret`. -/
theorem witness_UserModeCannotReachSupervisorState :
    after { vec 0x0001883A with status := 2#32 } (fun t => t.user) = true ∧
    after { vec 0x003B683A with status := 2#32 } (fun t => !t.user && t.eh) = true ∧
    after { vec 0xEF80083A with
        status := 2#32, estatus := 1#32, cfg := { Config.default with eretBretPrivileged := false } } (fun t =>
      t.status == 1#32) = true := by decide

/-- O55: `eret` and `wrctl status` each leave the Exception-active state. -/
theorem witness_OnlyEretAndWrctlStatusClearEh :
    { vec 0xEF80083A with status := 4#32 }.eh = true ∧
    after { vec 0xEF80083A with status := 4#32 } (fun t => !t.eh) = true ∧
    after { vec 0x0801703A with status := 4#32 } (fun t => !t.eh) = true := by decide

/-- O56: a step to a page start, to a breakpoint, one that uses up the budget, an interrupt, a breakpoint taken, a fetch
rejected, an illegal word, a trap. -/
theorem witness_BlockBoundariesFollowTheirCauses :
    after (vecAt 0xFFC#32 0x0001883A) (fun t => t.pc.toNat % 2 ^ t.cfg.pageBits == 0) = true ∧
    after { vec 0x0001883A with breakpoints := [0x104#32] } (fun t => t.breakpoints.contains t.pc) = true ∧
    State.reset.cfg.blockBudget ≤ (if State.reset.isBlockBoundary then 0 else State.reset.blockCount) + 1 ∧
    after { boundary with lines := 4#32 } (fun t => t.isBlockBoundary) = true ∧
    after { vec 0x0001883A with cfg := { Config.default with blockBudgetLess1 := 7 } } (fun t =>
      !t.isBlockBoundary && decide (t.blockCount < t.cfg.blockBudget)) = true ∧
    after { boundary with breakpoints := [0x100#32] } (fun t => t.isBlockBoundary) = true ∧
    after { small with pc := 0x3000#32 } (fun t => t.exception == 0x30#32 && t.isBlockBoundary) = true ∧
    after (vec 0x00000002) (fun t => t.pc == 0x80#32 && t.isBlockBoundary) = true ∧
    after (vec 0x003B683A) (fun t => t.exception == 12#32 && t.isBlockBoundary) = true := by decide

/-- O56: the ready states of its clauses, and an instruction whose exec dispatches. -/
theorem witness_ReadyToDispatch :
    ReadyToExecute { small with pc := 0x3000#32 } ∧ ReadyToExecute (vec 0x003B683A) ∧
    ({ small with pc := 0x3000#32 } : State).translate 0x3000#32 .fetch = .error .tlbMiss ∧
    (vec 0x003B683A).fetchWord = .word 0x003B683A#32 ∧ (decode 0x003B683A#32).instr? = some (.trap 0#5) ∧
    exec (.trap 0#5) (vec 0x003B683A).beginStep = .next (dispatch .trap 0x100#32 (vec 0x003B683A).beginStep) ∧
    (decode 2#32).instr? = none :=
  ⟨⟨by decide, by decide, by decide, by decide⟩, ⟨by decide, by decide, by decide, by decide⟩, rfl, by decide,
      by decide, rfl,
    by decide⟩

/-- O57: a run that returns at its budget, with a block of 8 whose first boundary after a branch it waits for; a stop
request; a single step. -/
theorem witness_RunsReturnAtABlockBoundary :
    MachineInv State.reset ∧ State.reset.stopped = true ∧
    back (runUntil 1 [] { vec 0x00000006 with cfg := { Config.default with blockBudgetLess1 := 7 } }) (fun why _ =>
      why == .exitedAtBudget) = true ∧
    back (runUntil 1 [[.raiseStop]] boundary) (fun why t => why == .haltedByRequest && t.pc == 0x100#32) = true ∧
    back (singleStep boundary) (fun why _ => why == .exitedAtBudget) = true ∧
    MachineInv (vec 0x00000006) ∧
    (∃ u, StandsAtFirstBoundary 1 [] (vec 0x00000006) 1 u) :=
  ⟨witness_StepKeepsTheMachineInvariant.1, by decide, by decide, by decide, by decide,
    ⟨by decide, by decide, by decide, by decide, by decide, by decide, .inl rfl⟩, _, by decide, rfl, by decide,
    fun m v h1 h2 _ => by omega⟩

/-- O59: a stopped core and a running one. -/
theorem witness_HostActsOnlyOnAStoppedCore :
    boundary.stopped = true ∧ { boundary with run := .running }.run = .running ∧ (6#5 ≠ 8#5 ∧ 6#5 ≠ 4#5) ∧
    { boundary with stopFlag := true }.stopFlag = true ∧ boundary.mem.wf = true := by decide

end Sys2Proof.Tests
end

section
/-! PROOFS. O58: what is read of a machine after a core reset (10_state.md R48). -/

namespace Sys2Proof.Machine

/-! ### What a register read returns after reset -/

/-- Every general register reads 0, the hardwired one by R21 and the others by their storage. -/
@[simp] theorem resetWith_readReg (c : Config) (tlb : List TlbEntry) (q : RegNum) :
    (State.resetWith c tlb).readReg q = 0#32 := by
  unfold State.readReg
  split
  · rfl
  · exact Vector.getElem_replicate _

/-- A vector filled with the default reads the default within its bounds and outside them. -/
theorem vector_getD_replicate (k i : Nat) (d : Word) : (Vector.replicate k d).getD i d = d := by
  rw [vector_getD_eq, Vector.getElem?_replicate]
  split <;> rfl

/-- Every control register reads 0: the computed `ipending` (R33) because no line is enabled, the slots without a name
because their vector is filled with 0, the others by their field. -/
@[simp] theorem resetWith_readCtl (c : Config) (tlb : List TlbEntry) (n : RegNum) :
    (State.resetWith c tlb).readCtl n = 0#32 := by
  unfold State.readCtl
  split
  case h_5 => exact BitVec.zero_and
  case h_15 => exact vector_getD_replicate 18 _ 0#32
  all_goals rfl

/-! A core reset leaves the registers of a machine just constructed. -/

@[simp] theorem coreReset_readReg (s : State) (tlb : List TlbEntry) (q : RegNum) :
    (s.coreReset tlb).readReg q = 0#32 :=
  (readReg_congr (s := State.resetWith s.cfg tlb) rfl rfl q).trans (resetWith_readReg s.cfg tlb q)

@[simp] theorem coreReset_readCtl (s : State) (tlb : List TlbEntry) (n : RegNum) :
    (s.coreReset tlb).readCtl n = 0#32 :=
  (readCtl_congr (s := State.resetWith s.cfg tlb) rfl rfl rfl rfl rfl rfl rfl rfl rfl rfl rfl rfl rfl rfl rfl n).trans
    (resetWith_readCtl s.cfg tlb n)

/-! ### `status` after reset -/

@[simp] theorem coreReset_pie (s : State) (tlb : List TlbEntry) : (s.coreReset tlb).pie = false := by
  simp [State.pie]

@[simp] theorem coreReset_user (s : State) (tlb : List TlbEntry) : (s.coreReset tlb).user = false := by
  simp [State.user]

@[simp] theorem coreReset_eh (s : State) (tlb : List TlbEntry) : (s.coreReset tlb).eh = false := by
  simp [State.eh]

/-- PIE is clear, so whatever the lines nothing is asserted (60_exceptions.md R336). -/
@[simp] theorem coreReset_asserted (s : State) (tlb : List TlbEntry) : (s.coreReset tlb).asserted = false := by
  simp [State.asserted]

theorem coreReset_keepsMemory (s : State) (tlb : List TlbEntry) : KeepsMemory s (s.coreReset tlb) :=
  fun _ => by rw [coreReset_mem]

/-- Settles O58, row by row of R48: the registers and `status` read 0, and the host's and the platform's rows are kept. -/
theorem coreResetSetsTheTable : Obligations.CoreResetSetsTheTable := fun s tlb =>
  ⟨coreReset_readReg s tlb, coreReset_pc s tlb, coreReset_readCtl s tlb, coreReset_pie s tlb, coreReset_user s tlb,
    coreReset_eh s tlb, coreReset_asserted s tlb, coreReset_tlb s tlb, coreReset_lines s tlb,
    coreReset_keepsMemory s tlb, coreReset_breakpoints s tlb, coreReset_stopFlag s tlb⟩

end Sys2Proof.Machine
end

section
/-! PROOFS. The family 20_memory.md: O26 and O27 (translation), O9 (fetch), O28 and O29 (the two TLB protocols of `wrctl`). -/

namespace Sys2Proof.Machine

/-! ### Translation by band (20_memory.md R67, R69) -/

theorem bandOf_eq_kernelPhysical_iff (c : Config) (va : Word) :
    bandOf c va = .kernelPhysical ↔ c.kernelPhysBase.toNat ≤ va.toNat := by
  unfold bandOf
  split
  · next h => exact iff_of_true rfl h
  · next h => exact iff_of_false (by split <;> nofun) h

theorem translate_of_noMmu {s : State} (hm : s.cfg.mmuPresent = false) (va : Word) (k : AccessKind) :
    s.translate va k = .ok va := by
  simp [State.translate, hm]

theorem translate_of_kernelPhysical {s : State} {va : Word} (hm : s.cfg.mmuPresent = true)
    (hv : s.cfg.kernelPhysBase.toNat ≤ va.toNat) (k : AccessKind) :
    s.translate va k = if s.user then .error .supervisor else .ok va := by
  simp [State.translate, hm, (bandOf_eq_kernelPhysical_iff s.cfg va).2 hv]

/-- Below `KERNEL_PHYS_BASE` both bands go through the TLB. -/
theorem translate_of_below {s : State} {va : Word} (hm : s.cfg.mmuPresent = true)
    (hv : va.toNat < s.cfg.kernelPhysBase.toNat) (k : AccessKind) : s.translate va k = s.tlbTranslate va k := by
  cases hb : bandOf s.cfg va with
  | kernelPhysical => exact absurd ((bandOf_eq_kernelPhysical_iff s.cfg va).1 hb) (by omega)
  | kernelVirtual => simp [State.translate, hm, hb]
  | userVirtual => simp [State.translate, hm, hb]

/-- Settles O26, by the MMU parameter, then the band, then the mode. -/
theorem translationByBand : Obligations.TranslationByBand := fun s va k =>
  ⟨fun hm => translate_of_noMmu hm va k,
    fun hm hv hu => by rw [translate_of_kernelPhysical hm hv, hu]; rfl,
    fun hm hv hu => by rw [translate_of_kernelPhysical hm hv, hu]; rfl,
    fun hm hv => translate_of_below hm hv k⟩

/-! ### TLB lookup (20_memory.md R71, R73) -/

/-- The matching ways of an address, with its set written out. -/
theorem mem_matchingWays_vpnOf (s : State) (va : Word) (way : Nat) :
    way ∈ s.matchingWays (vpnOf va) ↔
      way < s.cfg.tlbWays ∧ (s.tlbEntry way (va.toNat / 2 ^ 12 % s.cfg.tlbSets)).vpn = vpnOf va ∧
        ((s.tlbEntry way (va.toNat / 2 ^ 12 % s.cfg.tlbSets)).g = true ∨
          (s.tlbEntry way (va.toNat / 2 ^ 12 % s.cfg.tlbSets)).pid = tlbmiscPid s.tlbmisc) := by
  rw [mem_matchingWays, setOf_vpnOf]

theorem tlbTranslate_of_noMatch {s : State} {va : Word} (h : ∀ way, way ∉ s.matchingWays (vpnOf va)) (k : AccessKind) :
    s.tlbTranslate va k = .error .tlbMiss := by
  have hc : s.chosenWay (vpnOf va) k = none := (chosenWay_none s _ k).2 (List.eq_nil_iff_forall_not_mem.2 h)
  simp [State.tlbTranslate, hc]

theorem exists_chosenWay {s : State} {vpn : BitVec 20} {way : Nat} (h : way ∈ s.matchingWays vpn) (k : AccessKind) :
    ∃ w, s.chosenWay vpn k = some w :=
  Option.ne_none_iff_exists'.1 fun hc => List.ne_nil_of_mem h ((chosenWay_none s vpn k).1 hc)

/-- A chosen way translates through its entry, if the entry permits the kind. -/
theorem tlbTranslate_of_chosenWay {s : State} {va : Word} {k : AccessKind} {way : Nat}
    (h : s.chosenWay (vpnOf va) k = some way) :
    s.tlbTranslate va k =
      if (s.tlbEntry way (va.toNat / 2 ^ 12 % s.cfg.tlbSets)).permits k
      then .ok ((s.tlbEntry way (va.toNat / 2 ^ 12 % s.cfg.tlbSets)).pfn ++ va.extractLsb' 0 12)
      else .error .tlbPermission := by
  simp [State.tlbTranslate, h, setOf_vpnOf]

/-- Settles O27: with no matching way none is chosen; with one, the way that is chosen is a matching way. -/
theorem tlbLookupUsesAMatchingWay : Obligations.TlbLookupUsesAMatchingWay := by
  intro s va k
  constructor
  · intro hno
    exact tlbTranslate_of_noMatch (fun way hw => hno ⟨way, (mem_matchingWays_vpnOf s va way).1 hw⟩) k
  · rintro ⟨way, hway⟩
    obtain ⟨w, hw⟩ := exists_chosenWay ((mem_matchingWays_vpnOf s va way).2 hway) k
    obtain ⟨hlt, hvpn, hpid⟩ := (mem_matchingWays_vpnOf s va w).1 (chosenWay_mem s _ k w hw)
    exact ⟨w, _, hlt, rfl, hvpn, hpid, (tlbTranslate_of_chosenWay hw).trans (permits_ite _ _)⟩

/-! ### Fetch (20_memory.md R81) -/

theorem fetchWord_of_backed {s : State} {pa : Word} (ht : s.translate s.pc .fetch = .ok pa)
    (hb : s.backsAccess pa .word = true) : s.fetchWord = .word (s.mem.value pa .word) := by
  simp [State.fetchWord, ht, hb]

theorem fetchDecodeExecute_of_rejected {s : State} {f : MemFault} (h : s.translate s.pc .fetch = .error f) :
    fetchDecodeExecute s = .next (raiseMemFault f .fetch s.pc s) := by
  simp [fetchDecodeExecute, State.fetchWord, h]

/-- A rejected fetch is the exception of the rejection, with the Engine counters moved on. -/
theorem step_of_rejected {s : State} {f : MemFault} (hr : ReadyToExecute s)
    (h : s.translate s.pc .fetch = .error f) :
    step s = .next (s.endStep (raiseMemFault f .fetch s.pc s.beginStep)) := by
  have hf : fetchDecodeExecute s.beginStep = .next (raiseMemFault f .fetch s.pc s.beginStep) :=
    fetchDecodeExecute_of_rejected (s := s.beginStep) h
  rw [step, step_of_ready hr, hf, mapNext]

/-- A fetch is never misaligned (R64), so cause 6 is none of its causes. -/
theorem fetch_cause_code {s : State} {va : Word} {f : MemFault} (h : s.translate va .fetch = .error f) :
    (f.cause .fetch).code ∈ [9#5, 12#5, 13#5] := by
  cases f with
  | supervisor => decide
  | misaligned => exact absurd h (translate_ne_misaligned s va .fetch)
  | tlbMiss => decide
  | tlbPermission => decide

/-- Settles O9: the word is the little-endian value at the translated address; a rejected fetch raises its fault at `pc`. -/
theorem fetchReadsTranslatesAndFaults : Obligations.FetchReadsTranslatesAndFaults :=
  ⟨fun _ _ ht hb => fetchWord_of_backed ht hb,
    fun s f hr h => ⟨fetch_cause_code h, _, step_of_rejected hr h, accessRejected_raiseMemFault f .fetch s.pc s.beginStep⟩⟩

/-! ### What every `wrctl` in supervisor mode leaves the same (45_system.md R265, 48_engine_step.md R295(e)) -/

theorem wrctl_frame (s : State) (n : RegNum) (v : Word) :
    KeepsRegs s (s.writeCtl n v).advance.endBlock ∧ (s.writeCtl n v).advance.endBlock.pc = s.pc + 4#32 ∧
      (s.writeCtl n v).advance.endBlock.blockBoundary = true ∧ KeepsMemory s (s.writeCtl n v).advance.endBlock ∧
      KeepsInputs s (s.writeCtl n v).advance.endBlock ∧ (s.writeCtl n v).advance.endBlock.run = s.run :=
  ⟨fun q => by simp, by simp [State.pcNext], by simp, fun a => by simp,
    keepsInputs_of (by simp) (by simp) (by simp) (by simp) (by simp) (by simp), by simp⟩

/-! ### The TLB write of `wrctl tlbacc` (20_memory.md R76) -/

theorem writeCtl_tlbacc {s : State} (hm : s.cfg.mmuPresent = true) (v : Word) :
    s.writeCtl 9#5 v = State.tlbWrite { s with tlbacc := v } := by
  simp [State.writeCtl, hm, storeCtl_tlbacc_self]

theorem selectedWay_lt (s : State) : s.selectedWay < s.cfg.tlbWays := Nat.mod_lt _ (tlbWays_pos s.cfg)

theorem selectedSet_lt (s : State) : s.selectedSet < s.cfg.tlbSets := Nat.mod_lt _ (tlbSets_pos s.cfg)

/-- The entry written is the one that `tlbacc`, `pteaddr.VPN` and `tlbmisc.PID` describe, once the TLB has its shape. -/
theorem tlbWrite_tlbEntry_selected {s : State} (hwe : tlbmiscWe s.tlbmisc = true) (hm : s.cfg.mmuPresent = true)
    (hl : s.tlb.length = s.cfg.tlbSize) :
    s.tlbWrite.tlbEntry s.selectedWay s.selectedSet =
      entryOf s.tlbacc (pteaddrVpn s.pteaddr) (tlbmiscPid s.tlbmisc) := by
  have hi : s.selectedWay * s.cfg.tlbSets + s.selectedSet < s.tlb.length := by
    rw [hl, Config.tlbSize, if_pos hm]
    exact tlbIndex_lt (selectedWay_lt s) (selectedSet_lt s)
  simp [tlbWrite_of_we s hwe, State.tlbEntry, List.getD_eq_getElem?_getD, List.getElem?_set_self hi]

/-- Distinct places of the TLB have distinct indices, so every other entry is as before. -/
theorem tlbWrite_tlbEntry_other {s : State} (hwe : tlbmiscWe s.tlbmisc = true) {way set : Nat} (hs : set < s.cfg.tlbSets)
    (h : way ≠ s.selectedWay ∨ set ≠ s.selectedSet) : s.tlbWrite.tlbEntry way set = s.tlbEntry way set := by
  have hi : s.selectedWay * s.cfg.tlbSets + s.selectedSet ≠ way * s.cfg.tlbSets + set := fun e => by
    obtain ⟨hw, hs'⟩ := tlbIndex_inj (selectedSet_lt s) hs e
    omega
  simp [tlbWrite_of_we s hwe, State.tlbEntry, List.getD_eq_getElem?_getD, List.getElem?_set_ne hi]

/-- WAY moves on to the next way; `TLB_WAYS` is at most 16, so the field holds it. -/
theorem tlbWrite_way {s : State} (hwe : tlbmiscWe s.tlbmisc = true) :
    (tlbmiscWay s.tlbWrite.tlbmisc).toNat = (s.selectedWay + 1) % s.cfg.tlbWays := by
  have hlt : (s.selectedWay + 1) % s.cfg.tlbWays < 2 ^ 4 :=
    (Nat.mod_lt _ (tlbWays_pos s.cfg)).trans_le (tlbWays_le s.cfg)
  rw [tlbWrite_of_we s hwe, tlbmiscWay, setTlbmiscWay, extract_insertField _ _ _ _ (by omega), BitVec.toNat_ofNat,
    Nat.mod_eq_of_lt hlt]

theorem tlbWrite_tlbmisc_bit {s : State} (hwe : tlbmiscWe s.tlbmisc = true) {b : Nat} (hb : b < 20 ∨ 24 ≤ b) :
    s.tlbWrite.tlbmisc.getLsbD b = s.tlbmisc.getLsbD b := by
  rw [tlbWrite_of_we s hwe, setTlbmiscWay_bit _ _ _ hb]

/-- The two control registers that a `wrctl tlbacc` may leave otherwise are `tlbacc` and `tlbmisc`. -/
theorem writeCtl_tlbacc_readCtl (s : State) (ra : RegNum) {m : RegNum} (h9 : m ≠ 9#5) (h10 : m ≠ 10#5) :
    (s.writeCtl 9#5 (s.readReg ra)).readCtl m = s.readCtl m := by
  obtain h | h | ⟨-, h⟩ | ⟨-, -, h, -⟩ | ⟨h, -⟩ := writeCtl_readCtl_cases s 9#5 ra m
  · exact h
  · exact absurd h h9
  · exact absurd h (by decide)
  · exact absurd h (by decide)
  · exact absurd h h10

/-- Settles O28: the write is `State.tlbWrite` after `tlbacc` is stored, and WE says whether it does anything. -/
theorem wrctlTlbaccWritesATlbEntry : Obligations.WrctlTlbaccWritesATlbEntry := by
  intro s ra hinv hm hu
  obtain ⟨hregs, hpc, hblock, hmem, hinputs, hrun⟩ := wrctl_frame s 9#5 (s.readReg ra)
  refine ⟨_, exec_wrctl_supervisor hu, hregs, hpc, hblock, hmem, hinputs, hrun, ?_,
    fun m h9 h10 => by simpa using writeCtl_tlbacc_readCtl s ra h9 h10, ?_⟩
  · simp [writeCtl_tlbacc hm]
  rw [writeCtl_tlbacc hm]
  set u : State := { s with tlbacc := s.readReg ra }
  constructor
  · intro hwe
    rw [tlbWrite_of_not_we u hwe]
    exact ⟨rfl, rfl⟩
  · intro hwe
    have hentry := tlbWrite_tlbEntry_selected (s := u) hwe hm hinv.tlbShape
    exact ⟨_, _, _, rfl, rfl, hentry.symm, rfl, rfl, rfl, rfl, rfl, rfl, rfl, rfl,
      fun _ _ _ hset hne => tlbWrite_tlbEntry_other (s := u) hwe hset hne, tlbWrite_way (s := u) hwe,
      fun _ hb => tlbWrite_tlbmisc_bit (s := u) hwe hb⟩

/-! ### The TLB read of `wrctl tlbmisc` (20_memory.md R77) -/

theorem writeCtl_tlbmisc_of_rd {s : State} {v : Word} (hm : s.cfg.mmuPresent = true) (hr : tlbmiscRd v = true) :
    s.writeCtl 10#5 v = State.tlbRead { s with tlbmisc := clearTlbmiscRd v } := by
  simp [State.writeCtl, hm, hr, storeCtl_tlbmisc_self]

theorem clearTlbmiscRd_bit (v : Word) {b : Nat} (h : b ≠ 19) : (clearTlbmiscRd v).getLsbD b = v.getLsbD b := by
  unfold clearTlbmiscRd
  rw [getLsbD_insertField _ _ _ _ _ (by omega), if_neg (by omega)]

theorem clearTlbmiscRd_of_not_rd {v : Word} (h : tlbmiscRd v = false) : clearTlbmiscRd v = v := by
  apply BitVec.eq_of_getLsbD_eq
  intro b _
  by_cases hb : b = 19
  · subst hb
    exact (clearTlbmiscRd_rd v).trans h.symm
  · exact clearTlbmiscRd_bit v hb

theorem tlbmiscWay_clearTlbmiscRd (v : Word) : tlbmiscWay (clearTlbmiscRd v) = tlbmiscWay v :=
  extract_insertField_of_disjoint v 19 1 0#1 20 4 (by omega) (by omega)

theorem writeCtl_tlbmisc_of_not_rd {s : State} {v : Word} (hr : tlbmiscRd v = false) :
    s.writeCtl 10#5 v = { s with tlbmisc := v } := by
  simp [State.writeCtl, hr, storeCtl_tlbmisc_self, clearTlbmiscRd_of_not_rd hr]

theorem setTlbmiscPid_bit (v : Word) (pid : BitVec 14) {b : Nat} (h : b < 4 ∨ 18 ≤ b) :
    (setTlbmiscPid v pid).getLsbD b = v.getLsbD b := by
  unfold setTlbmiscPid
  rw [getLsbD_insertField _ _ _ _ _ (by omega), if_neg (by omega)]

theorem tlbmiscPid_set (v : Word) (pid : BitVec 14) : tlbmiscPid (setTlbmiscPid v pid) = pid :=
  extract_insertField v 4 14 pid (by omega)

/-- The fields of an entry as `tlbacc` shows them, `tlbacc[31:25]` as stored (10_state.md R36). -/
theorem insertField_accBits (w : Word) (e : TlbEntry) :
    (insertField w 0 25 e.accBits).extractLsb' 0 20 = e.pfn ∧ (insertField w 0 25 e.accBits).getLsbD 20 = e.g ∧
      (insertField w 0 25 e.accBits).getLsbD 21 = e.x ∧ (insertField w 0 25 e.accBits).getLsbD 22 = e.w ∧
      (insertField w 0 25 e.accBits).getLsbD 23 = e.r ∧ (insertField w 0 25 e.accBits).getLsbD 24 = e.c ∧
      ∀ b, 25 ≤ b → (insertField w 0 25 e.accBits).getLsbD b = w.getLsbD b := by
  have hlow {i : Nat} (h : i < 25) := insertField_low25 w e.accBits i h
  obtain ⟨hpfn, hg, hx, hw, hr, hc⟩ := accBits_fields e
  refine ⟨?_, (hlow (by omega)).trans hg, (hlow (by omega)).trans hx, (hlow (by omega)).trans hw,
    (hlow (by omega)).trans hr, (hlow (by omega)).trans hc, ?_⟩
  · rw [← hpfn]
    apply BitVec.eq_of_getLsbD_eq
    intro i hi
    rw [BitVec.getLsbD_extractLsb', BitVec.getLsbD_extractLsb', hlow (by omega)]
  · intro b hb
    rw [getLsbD_insertField _ _ _ _ _ (by omega), if_neg (by omega)]

theorem writeCtl_tlb_of_ne {s : State} {n : RegNum} (h : n ≠ 9#5) (v : Word) : (s.writeCtl n v).tlb = s.tlb := by
  obtain e | ⟨-, h9, -⟩ | ⟨-, -, -, e⟩ := writeCtl_cases s n v
  · rw [e, storeCtl_tlb]
  · exact absurd h9 h
  · rw [e, tlbRead_tlb, storeCtl_tlb]

/-- The three control registers that a `wrctl tlbmisc` may leave otherwise are `pteaddr`, `tlbacc` and `tlbmisc`. -/
theorem writeCtl_tlbmisc_readCtl (s : State) (ra : RegNum) {m : RegNum} (h8 : m ≠ 8#5) (h9 : m ≠ 9#5) (h10 : m ≠ 10#5) :
    (s.writeCtl 10#5 (s.readReg ra)).readCtl m = s.readCtl m := by
  obtain h | h | ⟨-, h⟩ | ⟨h, -⟩ | ⟨h, -⟩ := writeCtl_readCtl_cases s 10#5 ra m
  · exact h
  · exact absurd h h10
  · exact absurd h (by decide)
  · obtain h | h | h := h
    · exact absurd h h8
    · exact absurd h h9
    · exact absurd h h10
  · exact absurd h h10

/-- Settles O29: the read is `State.tlbRead` after `tlbmisc` is stored with RD cleared, which leaves WAY as written. -/
theorem wrctlTlbmiscReadsATlbEntry : Obligations.WrctlTlbmiscReadsATlbEntry := by
  intro s ra hm hu
  obtain ⟨hregs, hpc, hblock, hmem, hinputs, hrun⟩ := wrctl_frame s 10#5 (s.readReg ra)
  refine ⟨_, exec_wrctl_supervisor hu, hregs, hpc, hblock, hmem, hinputs, hrun, by simp [writeCtl_tlb_of_ne],
    fun m h8 h9 h10 => by simpa using writeCtl_tlbmisc_readCtl s ra h8 h9 h10, ?_, ?_⟩
  · intro hrd
    rw [writeCtl_tlbmisc_of_not_rd hrd]
    exact ⟨rfl, rfl, rfl⟩
  · intro hrd
    rw [writeCtl_tlbmisc_of_rd hm hrd]
    set v := s.readReg ra
    set e := s.tlbEntry ((tlbmiscWay (clearTlbmiscRd v)).toNat % s.cfg.tlbWays) s.selectedSet with he
    obtain ⟨hpfn, hg, hx, hw, hr, hc, hacc⟩ := insertField_accBits s.tlbacc e
    refine ⟨e, by rw [he, tlbmiscWay_clearTlbmiscRd]; rfl, hpfn, hg, hx, hw, hr, hc, hacc, tlbmiscPid_set _ _, ?_, ?_,
      pteaddrVpn_set _ _, fun b hb => setPteaddrVpn_bit _ _ b hb⟩
    · exact (setTlbmiscPid_bit _ _ (by omega)).trans (clearTlbmiscRd_rd v)
    · exact fun b h19 hb => (setTlbmiscPid_bit _ _ hb).trans (clearTlbmiscRd_bit v h19)

end Sys2Proof.Machine
end

section
/-! PROOFS. The family 30_encoding.md: O1 (decode of encode), O3 and O4 (the two tables), O8 (the illegal words). -/

namespace Sys2Proof

/-! ### The encoders as numbers (30_encoding.md R123) -/

theorem encodeI_toNat (op : BitVec 6) (a b : RegNum) (imm16 : BitVec 16) : (encodeI op a b imm16).toNat =
    a.toNat * 2 ^ 27 + b.toNat * 2 ^ 22 + imm16.toNat * 2 ^ 6 + op.toNat := by
  simp only [encodeI, BitVec.toNat_append, ← Nat.shiftLeft_add_eq_or_of_lt (BitVec.isLt _)]
  simp only [Nat.shiftLeft_eq]
  omega

theorem encodeR_toNat (opx : BitVec 6) (a b c : RegNum) (imm5 : BitVec 5) : (encodeR opx a b c imm5).toNat =
    a.toNat * 2 ^ 27 + b.toNat * 2 ^ 22 + c.toNat * 2 ^ 17 + opx.toNat * 2 ^ 11 + imm5.toNat * 2 ^ 6 + 0x3A := by
  simp only [encodeR, BitVec.toNat_append, ← Nat.shiftLeft_add_eq_or_of_lt (BitVec.isLt _)]
  simp only [Nat.shiftLeft_eq, BitVec.toNat_ofNat]
  omega

theorem encodeJ_toNat (op : BitVec 6) (imm26 : BitVec 26) :
    (encodeJ op imm26).toNat = imm26.toNat * 2 ^ 6 + op.toNat := by
  rw [encodeJ, BitVec.toNat_append, ← Nat.shiftLeft_add_eq_or_of_lt (BitVec.isLt _), Nat.shiftLeft_eq]

/-! ### Decode of encode (30_encoding.md R111, R112, R113) -/

theorem decode_of_registerForm {w : Word} (hop : fieldOp w = 0x3A#6) : decode w = decodeRegisterForm w := by
  rw [decode, hop]
  rfl

/-- By the format of the instruction: the number that the encoder put in `OP`, or in `OPX` behind 0x3A, picks the arm of
`decode`, and the arm reads every operand back from the field it was put in. -/
@[simp] theorem decode_encode (i : Instr) :
    decode (encode i) = if i.isUnimplemented then .unimplemented i else .valid i := by
  cases i with
  | call | jmpi | custom =>
    rw [encode, decode, fieldOp_encodeJ]
    conv_lhs => whnf
    simp [Instr.isUnimplemented]
  | addi | muli | andi | andhi | ori | orhi | xori | xorhi
  | cmpeqi | cmpnei | cmpgei | cmpgeui | cmplti | cmpltui
  | ldb | ldbu | ldh | ldhu | ldw | ldbio | ldbuio | ldhio | ldhuio | ldwio | stb | sth | stw | stbio | sthio | stwio
  | br | beq | bne | bge | bgeu | blt | bltu | flushd | flushda | initd | initda | rdprs =>
    rw [encode, decode, fieldOp_encodeI]
    conv_lhs => whnf
    simp [Instr.isUnimplemented]
  | add | sub | mul | mulxss | mulxsu | mulxuu | div | divu | and | or | xor | nor
  | cmpeq | cmpne | cmpge | cmpgeu | cmplt | cmpltu | sll | slli | srl | srli | sra | srai | rol | roli | ror
  | callr | jmp | ret | nextpc | trap | brk | bret | eret | rdctl | wrctl | sync | flushi | flushp | initi | wrprs =>
    rw [encode, decode_of_registerForm (fieldOp_encodeR _ _ _ _ _), decodeRegisterForm, fieldOpx_encodeR]
    conv_lhs => whnf
    simp [Instr.isUnimplemented]

/-- Settles O1: the round trip of each instruction, and the encoders' formulas. -/
theorem decodeOfEncodeIsTheInstruction : Obligations.DecodeOfEncodeIsTheInstruction :=
  ⟨decode_encode, encodeI_toNat, encodeR_toNat, encodeJ_toNat⟩

/-! ### The two tables (30_encoding.md R116, R117) -/

/-- Settles O3: `decode` looks a word up by its `OP` alone, so each row is the arm of that number. -/
theorem primaryTableOfDecode : Obligations.PrimaryTableOfDecode := by
  unfold Obligations.PrimaryTableOfDecode
  and_intros
  all_goals
    intro w hop
    rw [decode, hop]
    rfl

/-- Settles O4: behind 0x3A a word is looked up by its `OPX` alone, so each row is the arm of that number. -/
theorem secondaryTableOfDecode : Obligations.SecondaryTableOfDecode := by
  unfold Obligations.SecondaryTableOfDecode
  and_intros
  all_goals
    intro w hop hopx
    rw [decode_of_registerForm hop, decodeRegisterForm, hopx]
    rfl

/-! ### The illegal words (30_encoding.md R118) -/

theorem Decoded.instr?_eq_none_iff {d : Decoded} : d.instr? = none ↔ ∃ why, d = .illegal why := by
  cases d with
  | valid i => exact iff_of_false nofun nofun
  | unimplemented i => exact iff_of_false nofun nofun
  | illegal why => exact iff_of_true rfl ⟨why, rfl⟩

/-- The dashes of the primary table. -/
def illegalOpcodes : List (BitVec 6) :=
  [0x02#6, 0x09#6, 0x0A#6, 0x11#6, 0x12#6, 0x19#6, 0x1A#6, 0x1D#6, 0x1F#6, 0x21#6, 0x22#6, 0x29#6, 0x2A#6, 0x31#6, 0x39#6,
    0x3D#6, 0x3E#6, 0x3F#6]

/-- The dashes of the secondary table. -/
def illegalSubOpcodes : List (BitVec 6) :=
  [0x00#6, 0x0A#6, 0x0F#6, 0x11#6, 0x15#6, 0x19#6, 0x21#6, 0x22#6, 0x23#6, 0x2A#6, 0x2B#6, 0x2C#6, 0x2F#6, 0x32#6, 0x33#6,
    0x35#6, 0x37#6, 0x38#6, 0x3C#6, 0x3D#6, 0x3E#6, 0x3F#6]

theorem not_mem_of_toNat_eq {x : BitVec 6} {l : List (BitVec 6)} {n : Nat} (h : x.toNat = n)
    (hn : n ∉ l.map BitVec.toNat) : x ∉ l :=
  fun hx => hn (h ▸ List.mem_map_of_mem hx)

/-- Each named arm holds an instruction and its number is no dash; the numbers left to the last arm are the dashes. -/
theorem decodeRegisterForm_instr?_eq_none_iff (w : Word) :
    (decodeRegisterForm w).instr? = none ↔ fieldOpx w ∈ illegalSubOpcodes := by
  unfold decodeRegisterForm
  split
  case h_43 =>
    refine iff_of_true rfl ?_
    simp only [imp_false, illegalSubOpcodes, List.mem_cons, List.not_mem_nil, or_false, ← BitVec.toNat_inj,
      BitVec.toNat_ofNat] at *
    omega
  all_goals
    next hopx => exact iff_of_false nofun (not_mem_of_toNat_eq hopx (by decide))

/-- The same of the primary table, whose row 0x3A is the escape to the secondary one. -/
theorem decode_instr?_eq_none_iff_of_primary {w : Word} (hne : fieldOp w ≠ 0x3A#6) :
    (decode w).instr? = none ↔ fieldOp w ∈ illegalOpcodes := by
  unfold decode
  split
  case h_44 hop => exact absurd (BitVec.eq_of_toNat_eq hop) hne
  case h_47 =>
    refine iff_of_true rfl ?_
    simp only [imp_false, illegalOpcodes, List.mem_cons, List.not_mem_nil, or_false, ← BitVec.toNat_inj,
      BitVec.toNat_ofNat] at *
    omega
  all_goals
    next hop => exact iff_of_false nofun (not_mem_of_toNat_eq hop (by decide))

theorem decode_instr?_eq_none_iff (w : Word) :
    (decode w).instr? = none ↔
      fieldOp w ∈ illegalOpcodes ∨ (fieldOp w = 0x3A#6 ∧ fieldOpx w ∈ illegalSubOpcodes) := by
  by_cases hop : fieldOp w = 0x3A#6
  · have hdash : fieldOp w ∉ illegalOpcodes := by rw [hop]; decide
    rw [decode_of_registerForm hop, decodeRegisterForm_instr?_eq_none_iff, or_iff_right hdash, and_iff_right hop]
  · rw [decode_instr?_eq_none_iff_of_primary hop, or_iff_left (fun h => hop h.1)]

end Sys2Proof

namespace Sys2Proof.Machine

/-! ### A step on an illegal word (48_engine_step.md R293) -/

theorem fetchDecodeExecute_of_illegal {s : State} {pa : Word} (ht : s.translate s.pc .fetch = .ok pa)
    (hb : s.backsAccess pa .word = true) (hd : (decode (s.mem.value pa .word)).instr? = none) :
    fetchDecodeExecute s = raise .illegalInstruction s := by
  obtain ⟨why, hwhy⟩ := Decoded.instr?_eq_none_iff.1 hd
  simp [fetchDecodeExecute, fetchWord_of_backed ht hb, hwhy]

theorem step_of_illegal {s : State} {pa : Word} (hr : ReadyToExecute s) (ht : s.translate s.pc .fetch = .ok pa)
    (hb : s.backsAccess pa .word = true) (hd : (decode (s.mem.value pa .word)).instr? = none) :
    step s = .next (s.endStep (dispatch .illegalInstruction s.pc s.beginStep)) := by
  have hf : fetchDecodeExecute s.beginStep = raise .illegalInstruction s.beginStep :=
    fetchDecodeExecute_of_illegal (s := s.beginStep) ht hb hd
  rw [step, step_of_ready hr, hf, raise, mapNext, beginStep_pc]

/-- Settles O8: the dashes of the two tables, and the dispatch of cause 5, which is no row of `tlbmisc`. -/
theorem illegalWordsRaiseIllegalInstruction : Obligations.IllegalWordsRaiseIllegalInstruction :=
  ⟨decode_instr?_eq_none_iff, fun s _ hr ht hb hd =>
    ⟨_, step_of_illegal hr ht hb hd, dispatch_enters _ _ _, dispatch_saves (by decide) s.pc s.beginStep,
      dispatch_keepsOtherCtl rfl _ _⟩⟩

end Sys2Proof.Machine
end

section
/-! PROOFS. The family 40_arithmetic_logic.md: O11 to O15. An instruction's rule is its row of the decode table, the
function that `exec` hands to `writeResult`, and what that function is as a number or bit by bit. -/

namespace Sys2Proof.Machine

/-! ### The arithmetic results as numbers (40_arithmetic_logic.md R141) -/

theorem add_immSigned_eq (a : Word) (imm16 : BitVec 16) :
    a + immSigned imm16 = BitVec.ofInt 32 (a.toInt + imm16.toInt) := by
  rw [add_eq_ofInt, immSigned_toInt]

theorem mul_immSigned_eq (a : Word) (imm16 : BitVec 16) :
    a * immSigned imm16 = BitVec.ofInt 32 (a.toInt * imm16.toInt) := by
  rw [mul_eq_ofInt, immSigned_toInt]

theorem highWord_natCast (n : Nat) : highWord n = BitVec.ofNat 32 (n / 2 ^ 32) := by
  rw [highWord_eq, ← BitVec.ofInt_natCast]
  rfl

/-! ### Division and its corners (40_arithmetic_logic.md R150, R151) -/

/-- A word is one of the corner operands exactly when its signed reading is. -/
theorem divUndefined_iff (a b : Word) :
    divUndefined a b = true ↔ b.toInt = 0 ∨ (a.toInt = -2 ^ 31 ∧ b.toInt = -1) := by
  simp only [divUndefined, Bool.or_eq_true, Bool.and_eq_true, beq_iff_eq, ← BitVec.toInt_inj]
  rfl

theorem divSigned_eq (a b : Word) : divSigned a b =
    if b.toInt = 0 ∨ (a.toInt = -2 ^ 31 ∧ b.toInt = -1) then Config.divCorner .div a b
    else BitVec.ofInt 32 (Int.tdiv a.toInt b.toInt) := by
  simp only [divSigned, divUndefined_iff]

theorem divUnsigned_eq (a b : Word) : divUnsigned a b =
    if b.toNat = 0 then Config.divCorner .divu a b else BitVec.ofNat 32 (a.toNat / b.toNat) := by
  simp only [divUnsigned, ← BitVec.toNat_inj, BitVec.toNat_ofNat, Nat.zero_mod]

/-! ### The obligations -/

/-- Settles O11: the sums and the difference are those of the words. -/
theorem addAndSubtractResults : Obligations.AddAndSubtractResults := by
  refine ⟨registerRule_of (g := (· + ·)) ?_ (fun _ _ _ _ => rfl) add_eq_ofNat,
    immediateRule_of (g := fun a imm16 => a + immSigned imm16) (fun w hop => by rw [decode, hop]; rfl)
      (fun _ _ _ _ => rfl) add_immSigned_eq,
    registerRule_of (g := (· - ·)) ?_ (fun _ _ _ _ => rfl) sub_eq_ofInt⟩
  all_goals exact decodesRegisterForm_of fun w hopx => by rw [decodeRegisterForm, hopx]; rfl

/-- Settles O12: the low words are those of the words' product, and the high word is the floor over 2^32. -/
theorem multiplyResults : Obligations.MultiplyResults := by
  refine ⟨registerRule_of (g := (· * ·)) ?_ (fun _ _ _ _ => rfl) (fun _ _ => BitVec.mul_def),
    immediateRule_of (g := fun a imm16 => a * immSigned imm16) (fun w hop => by rw [decode, hop]; rfl)
      (fun _ _ _ _ => rfl) mul_immSigned_eq,
    registerRule_of (g := fun a b => highWord (a.toInt * b.toInt)) ?_ (fun _ _ _ _ => rfl) (fun _ _ => highWord_eq _),
    registerRule_of (g := fun a b => highWord (a.toInt * b.toNat)) ?_ (fun _ _ _ _ => rfl) (fun _ _ => highWord_eq _),
    registerRule_of (g := fun a b => highWord (a.toNat * b.toNat)) ?_ (fun _ _ _ _ => rfl)
      (fun a b => highWord_natCast (a.toNat * b.toNat))⟩
  all_goals exact decodesRegisterForm_of fun w hopx => by rw [decodeRegisterForm, hopx]; rfl

/-- Settles O13: the model's corners are the stated ones, and outside them its quotients are. -/
theorem divideResults : Obligations.DivideResults := by
  refine ⟨registerRule_of (g := divSigned) ?_ (fun _ _ _ _ => rfl) divSigned_eq,
    registerRule_of (g := divUnsigned) ?_ (fun _ _ _ _ => rfl) divUnsigned_eq⟩
  all_goals exact decodesRegisterForm_of fun w hopx => by rw [decodeRegisterForm, hopx]; rfl

/-- Settles O14: the word operations are bitwise; the complement in `nor` is within the 32 bits. -/
theorem logicalRegisterResults : Obligations.LogicalRegisterResults := by
  refine ⟨bitwiseRule_of (g := (· &&& ·)) ?_ (fun _ _ _ _ => rfl) (fun _ _ _ _ => BitVec.getLsbD_and),
    bitwiseRule_of (g := (· ||| ·)) ?_ (fun _ _ _ _ => rfl) (fun _ _ _ _ => BitVec.getLsbD_or),
    bitwiseRule_of (g := (· ^^^ ·)) ?_ (fun _ _ _ _ => rfl) (fun _ _ _ _ => BitVec.getLsbD_xor),
    bitwiseRule_of (g := fun a b => ~~~(a ||| b)) ?_ (fun _ _ _ _ => rfl)
      (fun a b k hk => by rw [BitVec.getLsbD_not, BitVec.getLsbD_or, decide_eq_true hk, Bool.true_and])⟩
  all_goals exact decodesRegisterForm_of fun w hopx => by rw [decodeRegisterForm, hopx]; rfl

/-- Settles O15: the word operations are bitwise, and the immediate's bits are those of its extension. -/
theorem logicalImmediateResults : Obligations.LogicalImmediateResults := by
  refine ⟨bitwiseImmediateRule_of (g := fun a imm16 => a &&& immUnsigned imm16) ?_ (fun _ _ _ _ => rfl)
      (fun _ _ _ hk => by rw [BitVec.getLsbD_and, immUnsigned_bit _ _ hk]),
    bitwiseImmediateRule_of (g := fun a imm16 => a &&& immHigh imm16) ?_ (fun _ _ _ _ => rfl)
      (fun _ _ _ hk => by rw [BitVec.getLsbD_and, immHigh_bit _ _ hk]),
    bitwiseImmediateRule_of (g := fun a imm16 => a ||| immUnsigned imm16) ?_ (fun _ _ _ _ => rfl)
      (fun _ _ _ hk => by rw [BitVec.getLsbD_or, immUnsigned_bit _ _ hk]),
    bitwiseImmediateRule_of (g := fun a imm16 => a ||| immHigh imm16) ?_ (fun _ _ _ _ => rfl)
      (fun _ _ _ hk => by rw [BitVec.getLsbD_or, immHigh_bit _ _ hk]),
    bitwiseImmediateRule_of (g := fun a imm16 => a ^^^ immUnsigned imm16) ?_ (fun _ _ _ _ => rfl)
      (fun _ _ _ hk => by rw [BitVec.getLsbD_xor, immUnsigned_bit _ _ hk]),
    bitwiseImmediateRule_of (g := fun a imm16 => a ^^^ immHigh imm16) ?_ (fun _ _ _ _ => rfl)
      (fun _ _ _ hk => by rw [BitVec.getLsbD_xor, immHigh_bit _ _ hk])⟩
  all_goals
    intro w hop
    rw [decode, hop]
    rfl

end Sys2Proof.Machine
end

section
/-! PROOFS. The family 41_compare.md: O16 and O17. Every comparison writes the `truthWord` of a Boolean relation (R170),
so its rule is its row of the decode table and the proposition that the relation decides. -/

namespace Sys2Proof.Machine

/-! ### The relations as propositions (41_compare.md R171 to R176) -/

theorem wordEq_iff (a b : Word) : wordEq a b = true ↔ a = b := beq_iff_eq

theorem not_wordEq_iff (a b : Word) : (!wordEq a b) = true ↔ a ≠ b := by
  rw [Bool.not_eq_true', ← Bool.not_eq_true, wordEq_iff]

theorem signedGe_iff (a b : Word) : signedGe a b = true ↔ a.toInt ≥ b.toInt := decide_eq_true_iff

theorem signedLt_iff (a b : Word) : signedLt a b = true ↔ a.toInt < b.toInt := decide_eq_true_iff

theorem unsignedGe_iff (a b : Word) : unsignedGe a b = true ↔ a.toNat ≥ b.toNat := decide_eq_true_iff

theorem unsignedLt_iff (a b : Word) : unsignedLt a b = true ↔ a.toNat < b.toNat := decide_eq_true_iff

/-! ### Equality with a sign-extended immediate (41_compare.md R177, R178)

Words are equal exactly when their signed readings are, and sign extension keeps the signed reading. -/

theorem eq_immSigned_iff (a : Word) (imm16 : BitVec 16) : a = immSigned imm16 ↔ a.toInt = imm16.toInt := by
  rw [← BitVec.toInt_inj, immSigned_toInt]

/-! ### The rule of a comparison (41_compare.md R170) -/

theorem truthWord_of_iff {p : Bool} {P : Prop} [Decidable P] (h : p = true ↔ P) :
    truthWord p = if P then 1#32 else 0#32 := by
  simp only [truthWord, h]

theorem registerRule_of_relation {opx : BitVec 6} {i : RegNum → RegNum → RegNum → Instr} {P : Word → Word → Prop}
    [∀ a b, Decidable (P a b)] (p : Word → Word → Bool)
    (hd : DecodesRegisterForm opx (fun w => .valid (i (fieldC w) (fieldA w) (fieldB w))))
    (hx : ∀ s rc ra rb, exec (i rc ra rb) s = writeResult rc (truthWord (p (s.readReg ra) (s.readReg rb))) s)
    (hp : ∀ a b, p a b = true ↔ P a b) : RegisterRule opx i (fun a b => if P a b then 1#32 else 0#32) :=
  registerRule_of (g := fun a b => truthWord (p a b)) hd hx fun a b => truthWord_of_iff (hp a b)

theorem immediateRule_of_relation {op : BitVec 6} {i : RegNum → RegNum → BitVec 16 → Instr}
    {P : Word → BitVec 16 → Prop} [∀ a imm16, Decidable (P a imm16)] (p : Word → BitVec 16 → Bool)
    (hd : DecodesPrimary op (fun w => .valid (i (fieldB w) (fieldA w) (fieldImm16 w))))
    (hx : ∀ s rb ra imm16, exec (i rb ra imm16) s = writeResult rb (truthWord (p (s.readReg ra) imm16)) s)
    (hp : ∀ a imm16, p a imm16 = true ↔ P a imm16) :
    ImmediateRule op i (fun a imm16 => if P a imm16 then 1#32 else 0#32) :=
  immediateRule_of (g := fun a imm16 => truthWord (p a imm16)) hd hx fun a imm16 => truthWord_of_iff (hp a imm16)

/-! ### The obligations -/

/-- Settles O16: each Boolean relation decides the stated one. -/
theorem compareRegisterResults : Obligations.CompareRegisterResults := by
  refine ⟨registerRule_of_relation wordEq ?_ (fun _ _ _ _ => rfl) wordEq_iff,
    registerRule_of_relation (fun a b => !wordEq a b) ?_ (fun _ _ _ _ => rfl) not_wordEq_iff,
    registerRule_of_relation signedGe ?_ (fun _ _ _ _ => rfl) signedGe_iff,
    registerRule_of_relation unsignedGe ?_ (fun _ _ _ _ => rfl) unsignedGe_iff,
    registerRule_of_relation signedLt ?_ (fun _ _ _ _ => rfl) signedLt_iff,
    registerRule_of_relation unsignedLt ?_ (fun _ _ _ _ => rfl) unsignedLt_iff⟩
  all_goals exact decodesRegisterForm_of fun w hopx => by rw [decodeRegisterForm, hopx]; rfl

/-- Settles O17: sign extension keeps the immediate's signed reading, and zero extension its unsigned one. -/
theorem compareImmediateResults : Obligations.CompareImmediateResults := by
  refine ⟨immediateRule_of_relation (fun a imm16 => wordEq a (immSigned imm16)) ?_ (fun _ _ _ _ => rfl)
      (fun _ _ => by rw [wordEq_iff, eq_immSigned_iff]),
    immediateRule_of_relation (fun a imm16 => !wordEq a (immSigned imm16)) ?_ (fun _ _ _ _ => rfl)
      (fun _ _ => by rw [not_wordEq_iff, Ne, eq_immSigned_iff]),
    immediateRule_of_relation (fun a imm16 => signedGe a (immSigned imm16)) ?_ (fun _ _ _ _ => rfl)
      (fun _ _ => by rw [signedGe_iff, immSigned_toInt]),
    immediateRule_of_relation (fun a imm16 => unsignedGe a (immUnsigned imm16)) ?_ (fun _ _ _ _ => rfl)
      (fun _ _ => by rw [unsignedGe_iff, immUnsigned_toNat]),
    immediateRule_of_relation (fun a imm16 => signedLt a (immSigned imm16)) ?_ (fun _ _ _ _ => rfl)
      (fun _ _ => by rw [signedLt_iff, immSigned_toInt]),
    immediateRule_of_relation (fun a imm16 => unsignedLt a (immUnsigned imm16)) ?_ (fun _ _ _ _ => rfl)
      (fun _ _ => by rw [unsignedLt_iff, immUnsigned_toNat])⟩
  all_goals
    intro w hop
    rw [decode, hop]
    rfl

end Sys2Proof.Machine
end

section
/-! PROOFS. The family 42_shift_rotate.md: O18 and O19. An instruction's rule is its row of the decode table, the
function of an operand and an amount below 32 that `exec` hands to `writeResult`, and what that function is as a number
or bit by bit. -/

namespace Sys2Proof.Machine

/-! ### Rotation by the amount of an instruction (42_shift_rotate.md R190, R197 to R199)

Both forms of the amount are below 32, the bound under which the rotations of the model are `rotated`. -/

theorem amountOfReg_lt (v : Word) : amountOfReg v < 32 := (v.extractLsb' 0 5).isLt

theorem rotateLeft_amountOfReg_rotated (a v : Word) :
    rotated a (32 - v.toNat % 32) (rotateLeft a (amountOfReg v)) := by
  rw [← amountOfReg_eq]
  exact rotateLeft_rotated a _ (amountOfReg_lt v)

theorem rotateLeft_amountOfImm_rotated (a : Word) (imm5 : BitVec 5) :
    rotated a (32 - imm5.toNat) (rotateLeft a (amountOfImm imm5)) :=
  rotateLeft_rotated a imm5.toNat imm5.isLt

theorem rotateRight_amountOfReg_rotated (a v : Word) :
    rotated a (v.toNat % 32) (rotateRight a (amountOfReg v)) := by
  rw [← amountOfReg_eq]
  exact rotateRight_rotated a _ (amountOfReg_lt v)

/-! ### The obligations -/

/-- Settles O18: a left shift multiplies, and the right shifts are the floors of the unsigned and the signed reading. -/
theorem shiftResults : Obligations.ShiftResults := by
  refine ⟨shiftRule_of (g := shiftLeft) ?_ (fun _ _ _ _ => rfl) shiftLeft_eq,
    shiftImmediateRule_of (g := shiftLeft) ?_ (fun _ _ _ _ => rfl) shiftLeft_eq,
    shiftRule_of (g := shiftRight) ?_ (fun _ _ _ _ => rfl) shiftRight_eq,
    shiftImmediateRule_of (g := shiftRight) ?_ (fun _ _ _ _ => rfl) shiftRight_eq,
    shiftRule_of (g := shiftRightArith) ?_ (fun _ _ _ _ => rfl) shiftRightArith_eq,
    shiftImmediateRule_of (g := shiftRightArith) ?_ (fun _ _ _ _ => rfl) shiftRightArith_eq⟩
  all_goals exact decodesRegisterForm_of fun w hopx => by rw [decodeRegisterForm, hopx]; rfl

/-- Settles O19: a rotation left by `n` takes bit `k` from `32 - n` places on, a rotation right from `n` places on. -/
theorem rotateResults : Obligations.RotateResults := by
  refine ⟨?_, ?_, ?_,
    fun _ _ _ _ => ⟨_, computes_of_writeResult rfl, rotateLeft_amountOfReg_rotated _ _⟩,
    fun _ _ _ _ => ⟨_, computes_of_writeResult rfl, rotateLeft_amountOfImm_rotated _ _⟩,
    fun _ _ _ _ => ⟨_, computes_of_writeResult rfl, rotateRight_amountOfReg_rotated _ _⟩⟩
  all_goals exact decodesRegisterForm_of fun w hopx => by rw [decodeRegisterForm, hopx]; rfl

end Sys2Proof.Machine
end

section
/-! PROOFS. The family 43_load_store.md: O20, O21 and O22. A load's rule is its row of the decode table, the width and
the extension that `exec` hands to `load`, and what that extension makes of the bytes read; a store's rule is its row
and its width. -/

namespace Sys2Proof.Machine

/-! ### The extensions of a loaded value (20_memory.md R61, 43_load_store.md R207) -/

theorem signExtend_value_byte (m : Memory) (pa : Word) :
    Width.signExtend .byte (m.value pa .byte) = (m.read (byteAddress pa 0)).signExtend 32 :=
  congrArg (BitVec.signExtend 32) (extract_setWidth_byte _)

theorem zeroExtend_value_byte (m : Memory) (pa : Word) :
    Width.zeroExtend .byte (m.value pa .byte) = (m.read (byteAddress pa 0)).setWidth 32 :=
  congrArg (BitVec.setWidth 32) (extract_setWidth_byte _)

theorem signExtend_value_half (m : Memory) (pa : Word) :
    Width.signExtend .half (m.value pa .half) =
      (m.read (byteAddress pa 1) ++ m.read (byteAddress pa 0)).signExtend 32 :=
  congrArg (BitVec.signExtend 32) (extract_setWidth_half _)

theorem zeroExtend_value_half (m : Memory) (pa : Word) :
    Width.zeroExtend .half (m.value pa .half) =
      (m.read (byteAddress pa 1) ++ m.read (byteAddress pa 0)).setWidth 32 :=
  congrArg (BitVec.setWidth 32) (extract_setWidth_half _)

theorem zeroExtend_value_word (m : Memory) (pa : Word) :
    Width.zeroExtend .word (m.value pa .word) =
      m.read (byteAddress pa 3) ++ m.read (byteAddress pa 2) ++ m.read (byteAddress pa 1) ++
        m.read (byteAddress pa 0) := rfl

/-! ### The bytes of a stored value (20_memory.md R61) -/

theorem byteOfWord_toNat (v : Word) (k : Nat) : (byteOfWord v k).toNat = v.toNat / 2 ^ (8 * k) % 2 ^ 8 := by
  rw [byteOfWord, BitVec.extractLsb'_toNat, Nat.shiftRight_eq_div_pow]

/-! ### The obligations -/

/-- Settles O20: each form with io has the width and the extension of the form without. -/
theorem loadResults : Obligations.LoadResults := by
  refine ⟨effectiveAddress_eq, dataAddress_byte_ne_misaligned, fun s va k => dataAddress_misaligned_of s va .half k,
    fun s va k => dataAddress_misaligned_of s va .word k,
    loadRule_of ?_ (fun _ _ _ _ => rfl) signExtend_value_byte,
    loadRule_of ?_ (fun _ _ _ _ => rfl) zeroExtend_value_byte,
    loadRule_of ?_ (fun _ _ _ _ => rfl) signExtend_value_half,
    loadRule_of ?_ (fun _ _ _ _ => rfl) zeroExtend_value_half,
    loadRule_of ?_ (fun _ _ _ _ => rfl) zeroExtend_value_word,
    loadRule_of ?_ (fun _ _ _ _ => rfl) signExtend_value_byte,
    loadRule_of ?_ (fun _ _ _ _ => rfl) zeroExtend_value_byte,
    loadRule_of ?_ (fun _ _ _ _ => rfl) signExtend_value_half,
    loadRule_of ?_ (fun _ _ _ _ => rfl) zeroExtend_value_half,
    loadRule_of ?_ (fun _ _ _ _ => rfl) zeroExtend_value_word⟩
  all_goals
    intro w hop
    rw [decode, hop]
    rfl

/-- Settles O21: `exec` of each store is `store` of its width, and the bytes of a store are those of the word. -/
theorem storeResults : Obligations.StoreResults := by
  refine ⟨effectiveAddress_eq, fun v k _ => byteOfWord_toNat v k, dataAddress_byte_ne_misaligned,
    fun s va k => dataAddress_misaligned_of s va .half k, fun s va k => dataAddress_misaligned_of s va .word k,
    storeRule_of ?_ (fun _ _ _ _ => rfl), storeRule_of ?_ (fun _ _ _ _ => rfl), storeRule_of ?_ (fun _ _ _ _ => rfl),
    storeRule_of ?_ (fun _ _ _ _ => rfl), storeRule_of ?_ (fun _ _ _ _ => rfl), storeRule_of ?_ (fun _ _ _ _ => rfl)⟩
  all_goals
    intro w hop
    rw [decode, hop]
    rfl

/-- Settles O22: both forms of a pair are one `load` or `store`. -/
theorem ioFormsBehaveAsThePlainForms : Obligations.IoFormsBehaveAsThePlainForms :=
  fun _ _ _ _ => ⟨rfl, rfl, rfl, rfl, rfl, rfl, rfl, rfl⟩

end Sys2Proof.Machine
end

section
/-! PROOFS. The family 44_control_transfer.md: O30, O31 and O32. A transfer's rule is its row of the decode table, the
target that `exec` hands to `jumpTo`, and what that target is as a number; a register-sourced one completes or raises by
the target's remainder modulo 4. -/

namespace Sys2Proof.Machine

/-! ### The taken target (44_control_transfer.md R236) -/

/-- The offset is a multiple of 4, and so is the modulus 2^32. -/
theorem branchDestination_aligned {pc : Word} (h : pc.toNat % 4 = 0) (imm16 : BitVec 16) :
    (branchDestination pc imm16).toNat % 4 = 0 := by
  rw [branchDestination, BitVec.toNat_ofInt]
  omega

theorem transfers_of_branch_true {i : Instr} {imm16 : BitVec 16} {s : State} (h : exec i s = branch true imm16 s) :
    Transfers s i (branchDestination s.pc imm16) := by
  rw [← branchTarget_eq]
  exact transfers_of_jumpTo h

/-! ### Absolute targets and `pc + 4` (44_control_transfer.md R238, R251) -/

theorem transfers_of_absoluteTarget {i : Instr} {imm26 : BitVec 26} {s : State}
    (h : exec i s = .next (s.jumpTo (s.absoluteTarget imm26))) :
    Transfers s i (BitVec.ofNat 32 (s.pc.toNat / 2 ^ 28 * 2 ^ 28 + imm26.toNat * 4)) := by
  rw [← absoluteTarget_eq]
  exact transfers_of_jumpTo h

theorem transfersAndLinks_of_absoluteTarget {i : Instr} {imm26 : BitVec 26} {s : State}
    (h : exec i s = .next ((s.writeReg regRa s.pcNext).jumpTo (s.absoluteTarget imm26))) :
    TransfersAndLinks s i (BitVec.ofNat 32 (s.pc.toNat / 2 ^ 28 * 2 ^ 28 + imm26.toNat * 4)) := by
  rw [← absoluteTarget_eq]
  exact transfersAndLinks_of_jumpTo h

theorem computes_of_pcNext {i : Instr} {r : RegNum} {s : State} (h : exec i s = writeResult r s.pcNext s) :
    Computes s i r (BitVec.ofNat 32 (s.pc.toNat + 4)) := by
  rw [← pcNext_eq]
  exact computes_of_writeResult h

/-! ### Register-sourced targets (44_control_transfer.md R237) -/

theorem transfers_of_jumpRegister {i : Instr} {u : Word} {s : State} (h : exec i s = jumpRegister u s (s.jumpTo u))
    (hu : u.toNat % 4 = 0) : Transfers s i u :=
  transfers_of_jumpTo (h.trans (jumpRegister_aligned hu))

theorem transfersAndLinks_of_jumpRegister {i : Instr} {u : Word} {s : State}
    (h : exec i s = jumpRegister u s ((s.writeReg regRa s.pcNext).jumpTo u)) (hu : u.toNat % 4 = 0) :
    TransfersAndLinks s i u :=
  transfersAndLinks_of_jumpTo (h.trans (jumpRegister_aligned hu))

/-- A misaligned target is raised before anything of the transfer, a link register among it, is written. -/
theorem raisesMisalignedDestination_of_jumpRegister {i : Instr} {u : Word} {s transfer : State}
    (h : exec i s = jumpRegister u s transfer) (hu : u.toNat % 4 ≠ 0) : RaisesMisalignedDestination s i u :=
  raisesMisalignedDestination_of (h.trans (jumpRegister_misaligned hu))

/-! ### The obligations -/

/-- Settles O30: `br` is the branch that is always taken, and the six conditional ones differ in their relation. -/
theorem branchResults : Obligations.BranchResults := by
  refine ⟨?_, fun _ _ => transfers_of_branch_true rfl, fun _ imm16 h => branchDestination_aligned h imm16,
    branchRule_of ?_ (fun _ _ _ _ => rfl), branchRule_of ?_ (fun _ _ _ _ => rfl), branchRule_of ?_ (fun _ _ _ _ => rfl),
    branchRule_of ?_ (fun _ _ _ _ => rfl), branchRule_of ?_ (fun _ _ _ _ => rfl), branchRule_of ?_ (fun _ _ _ _ => rfl)⟩
  all_goals
    intro w hop
    rw [decode, hop]
    rfl

/-- Settles O31: the absolute target and `pc + 4` as numbers. -/
theorem callJmpiAndNextpcResults : Obligations.CallJmpiAndNextpcResults :=
  ⟨fun w hop => by rw [decode, hop]; rfl, fun w hop => by rw [decode, hop]; rfl,
    decodesRegisterForm_of fun w hopx => by rw [decodeRegisterForm, hopx]; rfl,
    fun _ _ => transfersAndLinks_of_absoluteTarget rfl, fun _ _ => transfers_of_absoluteTarget rfl,
    fun _ _ => computes_of_pcNext rfl⟩

/-- Settles O32: each is `jumpRegister` of its target, which splits on the target's remainder; the target `callr` goes to
is read in the state before the link is written. -/
theorem registerJumpResults : Obligations.RegisterJumpResults := by
  refine ⟨?_, ?_, ?_,
    fun _ _ => transfersAndLinks_of_jumpRegister rfl, fun _ _ => transfers_of_jumpRegister rfl,
    fun _ => transfers_of_jumpRegister rfl, fun _ _ => raisesMisalignedDestination_of_jumpRegister rfl,
    fun _ _ => raisesMisalignedDestination_of_jumpRegister rfl, fun _ => raisesMisalignedDestination_of_jumpRegister rfl⟩
  all_goals exact decodesRegisterForm_of fun w hopx => by rw [decodeRegisterForm, hopx]; rfl

end Sys2Proof.Machine
end

section
/-! PROOFS. The family 45_system.md: O33 to O37 and O39. An instruction that may be rejected is one equation of `exec` per
answer of its mode or parameter check; the frame of each answer is that of the shared operation it ends in. -/

namespace Sys2Proof.Machine

/-! ### `break` (45_system.md R262) -/

theorem exec_brk_intercepted {s : State} (h : s.cfg.hostInterceptsDebug = true) (imm5 : BitVec 5) :
    exec (.brk imm5) s = .next (s.returnToHost .hitBreakpoint) := if_pos h

theorem exec_brk_notIntercepted {s : State} (h : s.cfg.hostInterceptsDebug = false) (imm5 : BitVec 5) :
    exec (.brk imm5) s = raise .debugBreak s := if_neg (by simp [h])

/-! ### `eret` and `bret` (45_system.md R263, R266, R278) -/

theorem returnRejected_of_user {s : State} (hu : s.user = true) (hp : s.cfg.eretBretPrivileged = true) :
    s.returnRejected = true := by
  simp [State.returnRejected, hu, hp]

theorem exec_eret_rejected {s : State} (h : s.returnRejected = true) : exec .eret s = raise .supervisorInstruction s :=
  if_pos h

theorem exec_eret_permitted {s : State} (h : s.returnRejected = false) :
    exec .eret s = jumpRegister (s.readReg regEa) s (returnFromException (s.readReg regEa) s) := if_neg (by simp [h])

theorem exec_bret_rejected {s : State} (h : s.returnRejected = true) : exec .bret s = raise .supervisorInstruction s :=
  if_pos h

/-- A `bret` that the privilege check lets pass is a jump to `x[30]`. -/
theorem exec_bret_permitted {s : State} (h : s.returnRejected = false) :
    exec .bret s = jumpRegister (s.readReg regBa) s (s.jumpTo (s.readReg regBa)) := if_neg (by simp [h])

theorem returnFromException_eq_storeCtl (u : Word) (s : State) :
    returnFromException u s = (s.storeCtl 0#5 s.estatus).jumpTo u := rfl

theorem returnFromException_readCtl_of_ne (u : Word) (s : State) {n : RegNum} (h : n ≠ 0#5) :
    (returnFromException u s).readCtl n = s.readCtl n := by
  rw [returnFromException_eq_storeCtl, jumpTo_readCtl]
  by_cases h4 : n = 4#5
  · subst h4
    rfl
  · exact storeCtl_readCtl_of_ne s 0#5 n s.estatus h h4

/-! ### `rdctl` (45_system.md R264) -/

theorem exec_rdctl_supervisor {s : State} (h : s.user = false) (rc n : RegNum) :
    exec (.rdctl rc n) s = writeResult rc (s.readCtl n) s := if_neg (by simp [h])

theorem exec_rdctl_user {s : State} (h : s.user = true) (rc n : RegNum) :
    exec (.rdctl rc n) s = raise .illegalInstruction s := if_pos h

/-- The unnamed control registers 14 to 31 are `ctlHigh` from its start (10_state.md R27). -/
theorem readCtl_unnamed (s : State) (k : Fin 18) : s.readCtl (BitVec.ofNat 5 (14 + k.val)) = s.ctlHigh.get k := by
  have hn : (BitVec.ofNat 5 (14 + k.val)).toNat = 14 + k.val := by
    rw [BitVec.toNat_ofNat, Nat.mod_eq_of_lt (by omega)]
  rw [readCtl_high (by omega), hn, Nat.add_sub_cancel_left, vector_getD_eq, Vector.getElem?_eq_getElem k.isLt]
  rfl

/-! ### The obligations -/

/-- Settles O33: each is the raise of its cause, which is no debug break and on no TLB row. -/
theorem trapAndUnimplementedSlotsTakeTheirCause : Obligations.TrapAndUnimplementedSlotsTakeTheirCause :=
  ⟨decodesRegisterForm_of fun w hopx => by rw [decodeRegisterForm, hopx]; rfl,
    fun w hop => by rw [decode, hop]; rfl, fun w hop => by rw [decode, hop]; rfl,
    decodesRegisterForm_of fun w hopx => by rw [decodeRegisterForm, hopx]; rfl, rfl, rfl,
    fun _ _ => raises_of_raise rfl (by decide) rfl, fun _ _ => raises_of_raise rfl (by decide) rfl,
    fun _ _ _ _ => raises_of_raise rfl (by decide) rfl, fun _ _ _ => raises_of_raise rfl (by decide) rfl⟩

/-- Settles O34: the dispatch of a debug break, or the return to the host, by the parameter. -/
theorem breakTakesTheDebugCauseOrReturnsToTheHost : Obligations.BreakTakesTheDebugCauseOrReturnsToTheHost := by
  refine ⟨decodesRegisterForm_of fun w hopx => by rw [decodeRegisterForm, hopx]; rfl, rfl, ?_, ?_⟩
  · intro s imm5 h
    exact ⟨_, exec_brk_notIntercepted h imm5, dispatch_enters .debugBreak s.pc s, dispatch_savesBreak s.pc s,
      dispatch_keepsOtherCtl rfl s.pc s⟩
  · intro s imm5 h
    exact ⟨_, exec_brk_intercepted h imm5, returnToHost_readReg s _, rfl, returnToHost_readCtl s _, rfl, fun _ => rfl,
      keepsInputs_of rfl rfl rfl rfl rfl rfl, rfl, rfl⟩

/-- Settles O35: past the privilege check `eret` is a register-sourced transfer that also copies `estatus` to `status`,
so `status` is the one control register that may read otherwise. -/
theorem eretRestoresStatusAndPc : Obligations.EretRestoresStatusAndPc := by
  refine ⟨decodesRegisterForm_of fun w hopx => by rw [decodeRegisterForm, hopx]; rfl, ?_, ?_, ?_⟩
  · intro s hpermitted haligned
    have hexec : exec .eret s = .next (returnFromException (s.readReg regEa) s) :=
      (exec_eret_permitted (returnRejected_of hpermitted)).trans (jumpRegister_aligned haligned)
    exact ⟨_, hexec, rfl, rfl, returnFromException_readReg _ s, rfl,
      fun _ hn => returnFromException_readCtl_of_ne _ s hn, rfl, fun _ => rfl,
      keepsInputs_of rfl rfl rfl rfl rfl rfl, rfl⟩
  · intro s hu hp
    exact raises_of_raise (exec_eret_rejected (returnRejected_of_user hu hp)) (by decide) rfl
  · intro s hpermitted
    exact raisesMisalignedDestination_of_jumpRegister (exec_eret_permitted (returnRejected_of hpermitted))

/-- Settles O36: past the privilege check `bret` is the jump to `x[30]`. -/
theorem bretRestoresPcOnly : Obligations.BretRestoresPcOnly := by
  refine ⟨decodesRegisterForm_of fun w hopx => by rw [decodeRegisterForm, hopx]; rfl, ?_, ?_, ?_⟩
  · intro s hpermitted
    exact transfers_of_jumpRegister (exec_bret_permitted (returnRejected_of hpermitted))
  · intro s hu hp
    exact raises_of_raise (exec_bret_rejected (returnRejected_of_user hu hp)) (by decide) rfl
  · intro s hpermitted
    exact raisesMisalignedDestination_of_jumpRegister (exec_bret_permitted (returnRejected_of hpermitted))

/-- Settles O37: a result instruction in supervisor mode; the bits that read 0 are those of the invariant. -/
theorem rdctlReadsAControlRegister : Obligations.RdctlReadsAControlRegister := by
  refine ⟨decodesRegisterForm_of fun w hopx => by rw [decodeRegisterForm, hopx]; rfl, ?_, ?_, ?_, readCtl_unnamed, ?_⟩
  · intro s rc n hu
    exact computes_of_writeResult (exec_rdctl_supervisor hu rc n)
  · intro s rc n hu
    exact raises_of_raise (exec_rdctl_user hu rc n) (by decide) rfl
  · intro s
    exact ⟨rfl, rfl, rfl, rfl, rfl, rfl, rfl, rfl, rfl, rfl, rfl, rfl, rfl, rfl⟩
  · intro s hinv
    exact ⟨hinv.tlbmiscRdZero, hinv.pteaddrLow⟩

/-- Settles O39: all eight are `State.advance`, whatever their operands. -/
theorem noOpInstructionsOnlyAdvance : Obligations.NoOpInstructionsOnlyAdvance := by
  refine ⟨?_, fun w hop => by rw [decode, hop]; rfl, fun w hop => by rw [decode, hop]; rfl, ?_, ?_,
    fun w hop => by rw [decode, hop]; rfl, fun w hop => by rw [decode, hop]; rfl, ?_, fun _ _ _ =>
      ⟨onlyAdvances_of_advance rfl, onlyAdvances_of_advance rfl, onlyAdvances_of_advance rfl,
        onlyAdvances_of_advance rfl, onlyAdvances_of_advance rfl, onlyAdvances_of_advance rfl,
        onlyAdvances_of_advance rfl, onlyAdvances_of_advance rfl⟩⟩
  all_goals exact decodesRegisterForm_of fun w hopx => by rw [decodeRegisterForm, hopx]; rfl

end Sys2Proof.Machine
end

section
/-! PROOFS. The family 60_exceptions.md: O40, O41 and O43 (Dispatch and the returns from it), O44 (lines and assertion),
O45 (delivery). Dispatch is `dispatch_enters` with the two lemmas of what it saves; delivery is the case split of
`cycle_next`, in which only the outcome that `asserted` guards dispatches cause 2. -/

namespace Sys2Proof.Machine

/-! ### Dispatch (60_exceptions.md R312, R320, R321, R322) -/

/-- A handler starts with PIE clear, so nothing is asserted in it whatever the lines are. -/
theorem asserted_of_entersHandler {s t : State} {c : Cause} (h : EntersHandler s t c) : t.asserted = false := by
  simp [State.asserted, h.pie]

/-- Only the four TLB causes have a row of their own for `tlbmisc`. -/
theorem tlbRow_eq_none {c : Cause} (hmiss : c ≠ .tlbMiss) (hexecute : c ≠ .tlbPermissionExecute)
    (hread : c ≠ .tlbPermissionRead) (hwrite : c ≠ .tlbPermissionWrite) : c.tlbRow = .none := by
  cases c with
  | tlbMiss => exact absurd rfl hmiss
  | tlbPermissionExecute => exact absurd rfl hexecute
  | tlbPermissionRead => exact absurd rfl hread
  | tlbPermissionWrite => exact absurd rfl hwrite
  | _ => rfl

/-- Settles O40: mode bits and cause are those of `dispatch_enters`; PIE = 0 leaves nothing asserted, U = 0 no state
without a meaning. -/
theorem dispatchPostconditionsForEveryCause : Obligations.DispatchPostconditionsForEveryCause := by
  refine ⟨fun c pc s => ?_, fun c => by cases c <;> rfl⟩
  have henters := dispatch_enters c pc s
  exact ⟨henters, asserted_of_entersHandler henters, fun ⟨_, huser⟩ => by simp [henters.user] at huser⟩

/-- Settles O41: the context by the kind of cause, and the frame of Dispatch among the control registers. -/
theorem firstEntrySavesAndNestedEntryPreserves : Obligations.FirstEntrySavesAndNestedEntryPreserves :=
  ⟨fun _ pc s hc => dispatch_saves hc pc s, dispatch_savesBreak,
    fun c pc s n h0 h1 h2 h7 h10 => dispatch_readCtl_of_others c pc s n h0 h1 h2 h7 fun h => absurd h h10,
    dispatch_tlbmisc_bit,
    fun _ pc s hmiss hexecute hread hwrite =>
      dispatch_tlbmisc_of_none (tlbRow_eq_none hmiss hexecute hread hwrite) pc s⟩

/-! ### Returning after a first entry (60_exceptions.md R330) -/

/-- The register written reads as the value, unless the write was discarded. -/
theorem WritesReg.readReg_self {s t : State} {r : RegNum} {v : Word} (h : WritesReg s t r v)
    (hr : s.hardwired r = false) : t.readReg r = v := by
  rw [h r, regAfter, if_pos ⟨rfl, hr⟩]

theorem WritesReg.readReg_of_ne {s t : State} {r q : RegNum} {v : Word} (h : WritesReg s t r v) (hq : q ≠ r) :
    t.readReg q = s.readReg q := by
  rw [h q, regAfter, if_neg fun hc => hq hc.1]

/-- Register 0 alone can be hardwired (10_state.md R21). -/
theorem hardwired_of_ne (s : State) {r : RegNum} (h : r ≠ 0#5) : s.hardwired r = false := by
  simp [State.hardwired, h]

/-- The link of an instruction at an aligned address is an aligned target. -/
theorem aligned_add_four {pc : Word} (h : pc.toNat % 4 = 0) : (pc + 4#32).toNat % 4 = 0 :=
  (aligned4_iff _).1 (aligned4_add ((aligned4_iff pc).2 h) rfl)

/-- A permitted `eret` with a saved pair (`status`, `link`) restores both and writes no register. -/
theorem eret_restores {u : State} {status link : Word} (hpermitted : u.user = false ∨ u.cfg.eretBretPrivileged = false)
    (hstatus : u.estatus = status) (hlink : u.readReg 29#5 = link) (haligned : link.toNat % 4 = 0) :
    ∃ t, exec .eret u = .next t ∧ t.status = status ∧ t.pc = link ∧ KeepsRegs u t := by
  subst hstatus hlink
  obtain ⟨-, hreturns, -⟩ := eretRestoresStatusAndPc
  obtain ⟨t, hexec, hstatus, hpc, hregs, -⟩ := hreturns u hpermitted haligned
  exact ⟨t, hexec, hstatus, hpc, hregs⟩

/-- A permitted `bret` goes to the link in `x[30]` and writes neither `status` nor a register. -/
theorem bret_resumes {u : State} {link : Word} (hpermitted : u.user = false ∨ u.cfg.eretBretPrivileged = false)
    (hlink : u.readReg 30#5 = link) (haligned : link.toNat % 4 = 0) :
    ∃ t, exec .bret u = .next t ∧ t.pc = link ∧ t.status = u.status ∧ KeepsRegs u t := by
  subst hlink
  obtain ⟨-, hreturns, -⟩ := bretRestoresPcOnly
  obtain ⟨t, hexec, hregs, hpc, -, hrest⟩ := hreturns u hpermitted haligned
  exact ⟨t, hexec, hpc, hrest.ctl 0#5, hregs⟩

/-- The link that a first-entry dispatch leaves in `x[29]`. -/
theorem dispatch_link {c : Cause} {s : State} (hc : c ≠ .debugBreak) (heh : s.eh = false) (pc : Word) :
    (dispatch c pc s).readReg 29#5 = pc + 4#32 :=
  ((dispatch_saves hc pc s).firstLink heh).readReg_self (hardwired_of_ne s (by decide))

/-- The link that the first-entry dispatch of a debug break leaves in `x[30]`. -/
theorem dispatch_breakLink {s : State} (heh : s.eh = false) (pc : Word) :
    (dispatch .debugBreak pc s).readReg 30#5 = pc + 4#32 :=
  ((dispatch_savesBreak pc s).firstLink heh).readReg_self (hardwired_of_ne s (by decide))

/-- Nested, a dispatch of any cause leaves both saved pairs and every register as they were (60_exceptions.md R322). -/
theorem dispatch_nested_keeps (c : Cause) (pc : Word) {s : State} (heh : s.eh = true) :
    (dispatch c pc s).estatus = s.estatus ∧ (dispatch c pc s).bstatus = s.bstatus ∧ KeepsRegs s (dispatch c pc s) := by
  by_cases hc : c = .debugBreak
  · subst hc
    have hsaves := dispatch_savesBreak pc s
    exact ⟨hsaves.estatus, hsaves.nestedStatus heh, hsaves.nestedLink heh⟩
  · have hsaves := dispatch_saves hc pc s
    exact ⟨hsaves.nestedStatus heh, hsaves.breakStatus, hsaves.nestedLink heh⟩

/-- Settles O43: the saved pair is (`status`, `pc + 4`), and the dispatched state itself, in supervisor mode, is one of
the later states that hold it. -/
theorem returnAfterFirstEntryRestoresTheContext : Obligations.ReturnAfterFirstEntryRestoresTheContext := by
  refine ⟨?_, ?_, fun c pc s heh => dispatch_nested_keeps c pc heh, ?_, ?_⟩
  · intro c s u hc heh hpc hestatus hlink hpermitted
    exact eret_restores hpermitted (hestatus.trans ((dispatch_saves hc s.pc s).firstStatus heh))
      (hlink.trans (dispatch_link hc heh s.pc)) (aligned_add_four hpc)
  · intro s u heh hpc hlink hpermitted
    exact bret_resumes hpermitted (hlink.trans (dispatch_breakLink heh s.pc)) (aligned_add_four hpc)
  · intro c s hc heh hpc
    have hsaves := dispatch_saves hc s.pc s
    obtain ⟨t, hexec, hstatus, htarget, hregs⟩ := eret_restores (.inl (dispatch_enters c s.pc s).user)
      (hsaves.firstStatus heh) (dispatch_link hc heh s.pc) (aligned_add_four hpc)
    exact ⟨t, hexec, hstatus, htarget, fun q hq => (hregs q).trans ((hsaves.firstLink heh).readReg_of_ne hq)⟩
  · intro s heh hpc
    obtain ⟨t, hexec, htarget, hstatus, hregs⟩ := bret_resumes (.inl (dispatch_enters .debugBreak s.pc s).user)
      (dispatch_breakLink heh s.pc) (aligned_add_four hpc)
    exact ⟨t, hexec, htarget, hstatus, fun q hq =>
      (hregs q).trans (((dispatch_savesBreak s.pc s).firstLink heh).readReg_of_ne hq)⟩

/-! ### Lines and assertion (60_exceptions.md R335, R336) -/

theorem setLineBit_bit (lines : Word) (n : Fin 32) (level : Bool) (k : Nat) :
    (setLineBit lines n level).getLsbD k = if k = n.val then level else lines.getLsbD k := by
  rw [setLineBit, getLsbD_insertField _ _ _ _ _ (by omega)]
  by_cases hk : k = n.val
  · simp [hk]
  · rw [if_neg (by omega), if_neg hk]

theorem setLineBit_of_bit {lines : Word} {n : Fin 32} {level : Bool} (h : lines.getLsbD n.val = level) :
    setLineBit lines n level = lines := by
  apply BitVec.eq_of_getLsbD_eq
  intro k _
  rw [setLineBit_bit]
  by_cases hk : k = n.val
  · rw [if_pos hk, hk, h]
  · rw [if_neg hk]

/-- Settles O44: `pending` is not 0 where it has a bit, and `set_line` writes a field of one bit. -/
theorem linesAndAssertion : Obligations.LinesAndAssertion := by
  refine ⟨fun s => ?_, fun s n level => ⟨fun k _ => setLineBit_bit s.lines n level k, rfl, fun h => ?_⟩⟩
  · rw [State.asserted, Bool.and_eq_true, bne_zero_iff]
    simp only [State.pie, State.pending, BitVec.getLsbD_and, Bool.and_eq_true]
  · show { s with lines := setLineBit s.lines n level } = s
    rw [setLineBit_of_bit h]

/-! ### Delivery (60_exceptions.md R337; 48_engine_step.md R290, R296) -/

theorem takesInterrupt_of_boundary {s : State} (ha : s.asserted = true) (hb : s.isBlockBoundary = true) :
    s.takesInterrupt = true := by
  simp [State.takesInterrupt, ha, hb]

theorem takesInterrupt_of_notAsserted {s : State} (ha : s.asserted = false) : s.takesInterrupt = false := by
  simp [State.takesInterrupt, ha]

/-- A step that takes the interrupt dispatches cause 2 at `pc`: no condition on EH, the breakpoints or the bytes there. -/
theorem step_delivers_interrupt {s : State} (hr : s.refusal = none) (hs : (s.isBlockBoundary && s.stopFlag) = false)
    (ht : s.takesInterrupt = true) :
    ∃ t, step s = .next (s.endStep t) ∧ EntersHandler s.beginStep t .interrupt ∧
      SavesContext s.beginStep t (s.pc + 4#32) ∧ KeepsOtherCtl s.beginStep t :=
  ⟨_, step_of_takesInterrupt hr hs ht, dispatch_enters .interrupt s.pc s.beginStep,
    dispatch_saves (by decide) s.pc s.beginStep, dispatch_keepsOtherCtl rfl s.pc s.beginStep⟩

/-- With no stop request and no interrupt, a step is the breakpoint or the instruction. -/
theorem step_of_notInterrupted {s : State} (hr : s.refusal = none) (hs : (s.isBlockBoundary && s.stopFlag) = false)
    (ht : s.takesInterrupt = false) :
    step s = if s.pc ∈ s.breakpoints then .next (s.endStep (debugEvent s.beginStep))
      else mapNext s.endStep (fetchDecodeExecute s.beginStep) := by
  rw [step, cycle, hr]
  simp [hs, ht]

theorem writeCtl_exception_of_ne (s : State) {n : RegNum} (h : n ≠ 7#5) (v : Word) :
    (s.writeCtl n v).exception = s.exception := by
  have hstore := storeCtl_exception_of_ne s n v fun hn => h (regNum_eq_of_toNat hn rfl)
  rcases writeCtl_cases s n v with hw | ⟨-, -, hw⟩ | ⟨-, -, -, hw⟩
  · rw [hw, hstore]
  · rw [hw, tlbWrite_exception, hstore]
  · rw [hw, tlbRead_exception, hstore]

/-- An instruction that dispatches nothing writes `exception` only if it is a `wrctl` of it in supervisor mode. -/
theorem quiet_exception {i : Instr} {s t : State} (h : Quiet i s t) :
    t.exception = s.exception ∨ ∃ ra, i = .wrctl 7#5 ra ∧ s.user = false := by
  cases h with
  | wroteCtl n ra hi hu =>
    by_cases hn : n = 7#5
    · exact .inr ⟨ra, hn ▸ hi, hu⟩
    · exact .inl (writeCtl_exception_of_ne s hn _)
  | _ => left; simp

/-- CAUSE after a breakpoint is as before it, or that of a debug break. -/
theorem debugEvent_causeField (s : State) : (debugEvent s).exception = s.exception ∨
    (debugEvent s).exception.extractLsb' 2 5 = 31#5 := by
  unfold debugEvent
  split
  · exact .inl rfl
  · right
    rw [returnToHost_exception]
    exact (dispatch_enters .debugBreak s.pc s).cause

/-- CAUSE is 2 after an instruction only if it was 2 before it, or a `wrctl` of `exception` wrote it: no instruction
dispatches cause 2. -/
theorem causeField_interrupt_of_fetchDecodeExecute {s t : State} (hp : aligned4 s.pc = true)
    (h : fetchDecodeExecute s = .next t) (hcause : t.exception.extractLsb' 2 5 = 2#5) :
    s.exception.extractLsb' 2 5 = 2#5 ∨
      ∃ w ra, s.fetchWord = .word w ∧ decode w = .valid (.wrctl 7#5 ra) ∧ s.user = false := by
  rcases fetchDecodeExecute_cases hp h with ⟨c, hd⟩ | ⟨w, i, hw, hi, heffect⟩
  · exact absurd hcause (dispatched_causeField hd)
  rcases effect_dispatched_or_quiet heffect with ⟨c, hd⟩ | hquiet
  · exact absurd hcause (dispatched_causeField hd)
  rcases quiet_exception hquiet with hkept | ⟨ra, rfl, hu⟩
  · exact .inl (hkept ▸ hcause)
  · exact .inr ⟨w, ra, hw, hi, hu⟩

/-- The same of a step that takes no interrupt: a stop request, or a breakpoint left to the host, keeps CAUSE, and a
breakpoint that is dispatched leaves 31. -/
theorem causeField_interrupt_of_step {s t : State} (ht : s.takesInterrupt = false) (h : step s = .next t)
    (hcause : t.exception.extractLsb' 2 5 = 2#5) :
    s.exception.extractLsb' 2 5 = 2#5 ∨
      ∃ w ra, s.fetchWord = .word w ∧ decode w = .valid (.wrctl 7#5 ra) ∧ s.user = false := by
  obtain ⟨hr, ⟨-, -, rfl⟩ | ⟨htakes, -⟩ | ⟨-, rfl⟩ | ⟨-, u, hu, rfl⟩⟩ := cycle_next h
  · exact .inl hcause
  · simp [ht] at htakes
  · rcases debugEvent_causeField s.beginStep with hkept | hbreak
    · rw [endStep_exception, hkept] at hcause
      exact .inl hcause
    · rw [endStep_exception, hbreak] at hcause
      exact absurd hcause (by decide)
  · exact causeField_interrupt_of_fetchDecodeExecute (s := s.beginStep) (aligned4_of_refusal hr) hu hcause

/-- Settles O45: an asserted interrupt is taken at every block boundary, and one that is not asserted nowhere. -/
theorem assertedInterruptIsDelivered : Obligations.AssertedInterruptIsDelivered :=
  ⟨fun _ hr hs ha hb => step_delivers_interrupt hr hs (takesInterrupt_of_boundary ha hb),
    fun _ hr hs ht => step_delivers_interrupt hr hs ht,
    fun _ ha => takesInterrupt_of_notAsserted ha,
    fun _ ha hr hs => step_of_notInterrupted hr hs (takesInterrupt_of_notAsserted ha),
    fun _ _ ha h hcause => causeField_interrupt_of_step (takesInterrupt_of_notAsserted ha) h hcause⟩

end Sys2Proof.Machine
end

section
/-! PROOFS. The machine invariant: O49 (every step keeps it), O50 (reset meets it), O51 (the moves between steps keep it),
O52 (the inputs no step changes), O60 (the shape of the TLB). A step is one of the outcomes of `cycle_next`; each ends in a
state whose core part is kept by the shared operation that made it, and `endStep` restores the clause on the block. -/

namespace Sys2Proof.Machine

/-! ### The outcomes of a step (48_engine_step.md R290, R294) -/

/-- An instruction is any of its effects, and all of them keep the parameters, the lines, the breakpoint set and the stop
flag. -/
theorem fetchDecodeExecute_keepsInputs {s t : State} (hp : aligned4 s.pc = true) (h : fetchDecodeExecute s = .next t) :
    t.cfg = s.cfg ∧ t.lines = s.lines ∧ t.breakpoints = s.breakpoints ∧ t.stopFlag = s.stopFlag := by
  obtain ⟨i, heffect⟩ := fetchDecodeExecute_effect hp h
  obtain ⟨hcfg, hlines, hbreakpoints, hstop, -, -⟩ := effect_keepsInputs heffect
  exact ⟨hcfg, hlines, hbreakpoints, hstop⟩

theorem step_keepsInputs {s t : State} (h : step s = .next t) :
    t.cfg = s.cfg ∧ t.lines = s.lines ∧ t.breakpoints = s.breakpoints ∧ t.stopFlag = s.stopFlag := by
  obtain ⟨hr, ⟨-, -, rfl⟩ | ⟨-, rfl⟩ | ⟨-, rfl⟩ | ⟨-, u, hu, rfl⟩⟩ := cycle_next h
  · exact ⟨rfl, rfl, rfl, rfl⟩
  · simp
  · exact debugEvent_keepsInputs s.beginStep
  · exact fetchDecodeExecute_keepsInputs (s := s.beginStep) (t := u) (aligned4_of_refusal hr) hu

/-- Settles O52, by the outcome of the step. -/
theorem stepLeavesInputsAlone : Obligations.StepLeavesInputsAlone := fun _ _ h => step_keepsInputs h

/-! ### Every step keeps the invariant (10_state.md R25, R35, R37, R41, R47) -/

theorem coreInv_fetchDecodeExecute {s t : State} (h : CoreInv s) (hx : fetchDecodeExecute s = .next t) : CoreInv t := by
  obtain ⟨i, heffect⟩ := fetchDecodeExecute_effect h.pcAligned hx
  exact coreInv_effect h heffect

/-- `endStep` ends a block that has used its budget, so what it leaves has the whole invariant (48_engine_step.md R295(d)). -/
theorem machineInv_endStep {s u : State} (hu : CoreInv u) (hc : u.cfg = s.cfg) : MachineInv (s.endStep u) :=
  machineInv_of (coreInv_endStep hu) (endStep_withinBudget s u hc)

/-- Settles O49, by the outcome of the step: a stop request changes only the Engine's fields, and the three others end in
`endStep`. -/
theorem stepKeepsTheMachineInvariant : Obligations.StepKeepsTheMachineInvariant := by
  intro s t hinv h
  have hbegin : CoreInv s.beginStep := coreInv_beginStep hinv.core
  have hcfg : t.cfg = s.cfg := (step_keepsInputs h).1
  obtain ⟨-, ⟨-, -, rfl⟩ | ⟨-, rfl⟩ | ⟨-, rfl⟩ | ⟨-, u, hu, rfl⟩⟩ := cycle_next h
  · exact machineInv_of (coreInv_returnToHost hinv.core _) (.inl rfl)
  · exact machineInv_endStep (coreInv_dispatch hbegin _ _) hcfg
  · exact machineInv_endStep (coreInv_debugEvent hbegin) hcfg
  · exact machineInv_endStep (coreInv_fetchDecodeExecute hbegin hu) hcfg

/-! ### Reset meets the invariant (10_state.md R48) -/

theorem machineInv_resetWith {c : Config} {tlb : List TlbEntry} (hc : validConfig c = true)
    (hl : tlb.length = c.tlbSize) : MachineInv (State.resetWith c tlb) where
  config := hc
  pcAligned := (validParts hc).reset
  memory := rfl
  tlbShape := hl
  pteaddrLow := rfl
  tlbmiscRdZero := BitVec.getLsbD_zero
  blockWithinBudget := .inl rfl

/-- Settles O50: the two named resets have a valid configuration and a TLB of its size. -/
theorem resetMeetsTheInvariantAndTheTable : Obligations.ResetMeetsTheInvariantAndTheTable :=
  ⟨fun _ _ hc hl => machineInv_resetWith hc hl, resetWith_readReg, resetWith_readCtl, fun _ _ => ⟨rfl, rfl, rfl, rfl⟩,
    machineInv_resetWith (by decide) rfl, machineInv_resetWith (by decide) List.length_replicate⟩

/-! ### The moves between two steps (48_engine_step.md R302) -/

/-- The lines and the stop flag are in no clause, and a device write keeps the canonical form of memory. -/
theorem machineInv_applyLive {s : State} (h : MachineInv s) (m : LiveMove) : MachineInv (applyLive m s) := by
  have hmem : (applyLive m s).mem.wf = true := applyLive_wf h.memory m
  obtain ⟨hconfig, hpc, -, htlb, hpteaddr, htlbmisc, hblock⟩ := h
  cases m <;> exact ⟨hconfig, hpc, hmem, htlb, hpteaddr, htlbmisc, hblock⟩

theorem machineInv_applyLives {s : State} (h : MachineInv s) (ms : List LiveMove) : MachineInv (applyLives ms s) := by
  induction ms generalizing s with
  | nil => exact h
  | cons m ms ih => exact ih (machineInv_applyLive h m)

theorem machineInv_writeReg {s : State} (h : MachineInv s) (r : RegNum) (v : Word) : MachineInv (s.writeReg r v) :=
  machineInv_of
    (coreInv_of_same h.core (by simpa using h.pcAligned) (by simp) (by simp) (by simp) (by simp) (by simp))
    (by simpa using h.blockWithinBudget)

/-- A store keeps the bits of `pteaddr` and `tlbmisc` that read 0 (10_state.md R35, R37), and it starts no protocol. -/
theorem machineInv_storeCtl {s : State} (h : MachineInv s) (n : RegNum) (v : Word) : MachineInv (s.storeCtl n v) :=
  machineInv_of (coreInv_storeCtl h.core n v) (by simpa using h.blockWithinBudget)

theorem machineInv_coreReset {s : State} (h : MachineInv s) {tlb : List TlbEntry} (hl : tlb.length = s.cfg.tlbSize) :
    MachineInv (s.coreReset tlb) where
  config := h.config
  pcAligned := (validParts h.config).reset
  memory := h.memory
  tlbShape := hl
  pteaddrLow := rfl
  tlbmiscRdZero := BitVec.getLsbD_zero
  blockWithinBudget := .inl rfl

theorem machineInv_of_hostInputs {s : State} (h : MachineInv s) (breakpoints : List Word) (stopFlag : Bool) :
    MachineInv { s with breakpoints := breakpoints, stopFlag := stopFlag } := by
  obtain ⟨hconfig, hpc, hmem, htlb, hpteaddr, htlbmisc, hblock⟩ := h
  exact ⟨hconfig, hpc, hmem, htlb, hpteaddr, htlbmisc, hblock⟩

theorem machineInv_writePc {s : State} (h : MachineInv s) {v : Word} (hv : aligned4 v = true) :
    MachineInv { s with pc := v } := by
  obtain ⟨hconfig, -, hmem, htlb, hpteaddr, htlbmisc, hblock⟩ := h
  exact ⟨hconfig, hv, hmem, htlb, hpteaddr, htlbmisc, hblock⟩

/-- By the move: the two that can break a clause, a written `pc` and a reset, are the two `wellFormed` asks something of. -/
theorem machineInv_hostEffect {s : State} (h : MachineInv s) {m : HostMove} (hm : m.wellFormed s.cfg = true) :
    MachineInv (hostEffect m s) := by
  cases m with
  | writeReg r v => exact machineInv_writeReg h r v
  | writeCtl n v => exact machineInv_storeCtl h n v
  | writePc v => exact machineInv_writePc h hm
  | addBreakpoint va => exact machineInv_of_hostInputs h _ s.stopFlag
  | removeBreakpoint va => exact machineInv_of_hostInputs h _ s.stopFlag
  | setStop up => exact machineInv_of_hostInputs h s.breakpoints up
  | resetCore tlb => exact machineInv_coreReset h (by simpa [HostMove.wellFormed] using hm)

/-- Settles O51: a host move that has a result is its effect. -/
theorem movesBetweenStepsKeepTheInvariant : Obligations.MovesBetweenStepsKeepTheInvariant := by
  refine ⟨fun m s h => machineInv_applyLive h m, fun m s t hm h happly => ?_⟩
  obtain ⟨-, rfl⟩ := (applyHost_eq_some m s t).1 happly
  exact machineInv_hostEffect h hm

/-! ### The layout of the TLB (10_state.md R41) -/

/-- Settles O60: the index of a way and a set is below the size that the invariant gives the list. -/
theorem tlbEntriesStandInOneList : Obligations.TlbEntriesStandInOneList := by
  intro s hinv hm way set hway hset
  have hlt : way * s.cfg.tlbSets + set < s.tlb.length := by
    rw [hinv.tlbShape, Config.tlbSize, if_pos hm]
    exact tlbIndex_lt hway hset
  rw [State.tlbEntry, List.getD_eq_getElem _ _ hlt, List.getElem?_eq_getElem hlt]

end Sys2Proof.Machine
end

section
/-! PROOFS. Who writes what: O53 (10_state.md R50), O54 (what a step from user mode can reach) and O55 (what leaves the
Exception-active state). A step that executes dispatches or has an effect of its own (`effect_dispatched_or_quiet`), and
the statements read off the frame of each. -/

namespace Sys2Proof.Machine

/-! ### Who writes `status` (10_state.md R50, 60_exceptions.md R310) -/

theorem writeCtl_status_self (s : State) (v : Word) : (s.writeCtl 0#5 v).status = v := by
  rw [writeCtl_plain v fun _ => by decide]
  rfl

/-- An instruction that dispatches nothing writes `status` only as `eret` or as a `wrctl` of it in supervisor mode. -/
theorem quiet_status {i : Instr} {s t : State} (h : Quiet i s t) :
    t.status = s.status ∨ (i = .eret ∧ t.status = s.estatus) ∨
      ∃ ra, i = .wrctl 0#5 ra ∧ s.user = false ∧ t.status = s.readReg ra := by
  cases h with
  | returned u hi => exact .inr (.inl ⟨hi, rfl⟩)
  | wroteCtl n ra hi hu =>
    by_cases hn : n = 0#5
    · subst hn
      exact .inr (.inr ⟨ra, hi, hu, writeCtl_status_self s _⟩)
    · exact .inl (writeCtl_status_of_ne s n _ hn)
  | _ => left; simp

/-! ### The rows of 10_state.md R50 -/

theorem status_writers {i : Instr} {s t : State} (h : (∃ c, Dispatched s t c) ∨ Quiet i s t) :
    t.status = s.status ∨ ((∃ ra, i = .wrctl 0#5 ra) ∧ s.user = false) ∨ (i = .eret ∧ t.status = s.estatus) ∨
      ∃ c, EntersHandler s t c := by
  obtain ⟨c, hd⟩ | hquiet := h
  · exact .inr (.inr (.inr ⟨c, hd.enters⟩))
  · obtain hkept | heret | ⟨ra, hi, hu, -⟩ := quiet_status hquiet
    · exact .inl hkept
    · exact .inr (.inr (.inl heret))
    · exact .inr (.inl ⟨⟨ra, hi⟩, hu⟩)

theorem register_writers {i : Instr} {s t : State} (h : (∃ c, Dispatched s t c) ∨ Quiet i s t) (q : RegNum) :
    t.readReg q = s.readReg q ∨ destinationOf i = some q ∨
      (q = 29#5 ∧ s.eh = false ∧ ∃ c, c ≠ .debugBreak ∧ EntersHandler s t c) ∨
      (q = 30#5 ∧ s.eh = false ∧ EntersHandler s t .debugBreak) := by
  obtain ⟨c, hd⟩ | hquiet := h
  · obtain hkept | ⟨hq, heh, hc⟩ | ⟨hq, heh, rfl⟩ := dispatched_readReg hd q
    · exact .inl hkept
    · exact .inr (.inr (.inl ⟨hq, heh, c, hc, hd.enters⟩))
    · exact .inr (.inr (.inr ⟨hq, heh, hd.enters⟩))
  · obtain hkept | hdest := quiet_readReg hquiet q
    · exact .inl hkept
    · exact .inr (.inl hdest)

theorem ctl_writers {i : Instr} {s t : State} (h : (∃ c, Dispatched s t c) ∨ Quiet i s t) (n : RegNum) :
    t.readCtl n = s.readCtl n ∨ MayWriteCtl i s t n := by
  obtain ⟨c, hd⟩ | hquiet := h
  · exact dispatched_readCtl hd n
  · exact quiet_readCtl hquiet n

theorem pc_writers {i : Instr} {s t : State} (h : (∃ c, Dispatched s t c) ∨ Quiet i s t) :
    t.pc = s.pc + 4#32 ∨ roleOf i = .transfer ∨ roleOf i = .link ∨ (∃ c, EntersHandler s t c) ∨
      ((∃ imm5, i = .brk imm5) ∧ s.cfg.hostInterceptsDebug = true ∧ t.pc = s.pc) := by
  obtain ⟨c, hd⟩ | hquiet := h
  · exact .inr (.inr (.inr (.inl ⟨c, hd.enters⟩)))
  · obtain hnext | htransfer | hlink | hbreak := quiet_pc hquiet
    · exact .inl hnext
    · exact .inr (.inl htransfer)
    · exact .inr (.inr (.inl hlink))
    · exact .inr (.inr (.inr (.inr hbreak)))

/-- Settles O53: each part of the state has its own lemma over the two kinds of outcome. -/
theorem onlyItsWritersChangeEachPartOfTheState : Obligations.OnlyItsWritersChangeEachPartOfTheState := by
  intro i s t hpc hexec
  have heffect : Effect i s t := exec_effect ((aligned4_iff s.pc).2 hpc) hexec
  have hkind := effect_dispatched_or_quiet heffect
  obtain ⟨hcfg, hlines, hbreakpoints, hstop, hcount, hdraws⟩ := effect_keepsInputs heffect
  exact ⟨fun hstore _ => by rw [effect_mem heffect hstore], effect_tlb heffect, status_writers hkind,
    register_writers hkind, ctl_writers hkind, pc_writers hkind,
    keepsInputs_of hcfg hlines hbreakpoints hstop hcount hdraws⟩

/-! ### A step from user mode (60_exceptions.md R342, 45_system.md R278) -/

/-- No control register and no TLB entry is written. -/
def KeepsPrivileged (s t : State) : Prop := KeepsCtl s t ∧ t.user = s.user ∧ t.tlb = s.tlb

/-- A handler is entered, and only the control registers that Dispatch and the fault record write may read otherwise. -/
def HandlerEntered (s t : State) : Prop :=
  t.user = false ∧ t.eh = true ∧ t.pie = false ∧ (t.pc = s.cfg.exceptionAddr ∨ t.pc = s.cfg.fastTlbMissAddr) ∧
    t.tlb = s.tlb ∧ ∀ n, n ≠ 0#5 → n ≠ 1#5 → n ≠ 2#5 → n ≠ 7#5 → n ≠ 8#5 → n ≠ 10#5 → n ≠ 12#5 →
      t.readCtl n = s.readCtl n

theorem keepsPrivileged_of {s t : State} (hctl : KeepsCtl s t) (htlb : t.tlb = s.tlb) : KeepsPrivileged s t :=
  ⟨hctl, user_congr (hctl 0#5), htlb⟩

theorem entersHandler_pc {s t : State} {c : Cause} (h : EntersHandler s t c) :
    t.pc = s.cfg.exceptionAddr ∨ t.pc = s.cfg.fastTlbMissAddr := by
  rw [h.vector]
  split
  · exact .inr rfl
  · exact .inl rfl

theorem handlerEntered_dispatch (c : Cause) (pc : Word) (s : State) : HandlerEntered s (dispatch c pc s) :=
  have h := dispatch_enters c pc s
  ⟨h.user, h.eh, h.pie, entersHandler_pc h, h.tlb, fun n h0 h1 h2 h7 _ h10 _ =>
    dispatch_readCtl_of_others c pc s n h0 h1 h2 h7 fun hn => absurd hn h10⟩

theorem handlerEntered_of_dispatched {s t : State} {c : Cause} (h : Dispatched s t c) : HandlerEntered s t :=
  ⟨h.enters.user, h.enters.eh, h.enters.pie, entersHandler_pc h.enters, h.enters.tlb, fun n h0 h1 h2 h7 h8 h10 h12 =>
    h.otherCtl n h0 h1 h2 h7 (fun hn => absurd hn h8) (fun hn => absurd hn h10) (fun hn => absurd hn h12)⟩

/-- In user mode an instruction keeps what is privileged, enters a handler, or is an `eret` that the parameters permit:
every `wrctl` that would write is one in supervisor mode. -/
theorem effect_of_user {i : Instr} {s t : State} (hu : s.user = true) (h : Effect i s t) :
    KeepsPrivileged s t ∨ HandlerEntered s t ∨
      (i = .eret ∧ s.cfg.eretBretPrivileged = false ∧ ∃ u, t = returnFromException u s) := by
  cases h with
  | exception c hc => exact .inr (.inl (handlerEntered_dispatch c s.pc s))
  | badTarget u => exact .inr (.inl (handlerEntered_of_dispatched (dispatched_badTarget s u)))
  | badAccess f k va => exact .inr (.inl (handlerEntered_of_dispatched (dispatched_badAccess f k va s)))
  | returned u hi _ hp => exact .inr (.inr ⟨hi, by simpa [State.returnRejected, hu] using hp, u, rfl⟩)
  | wroteCtl n ra _ hsupervisor => simp [hu] at hsupervisor
  | stored pa n v _ => exact .inl (keepsPrivileged_of (fun m => by rw [advance_readCtl]; rfl) rfl)
  | _ => exact .inl (keepsPrivileged_of (fun m => by simp) (by simp))

theorem debugEvent_of_intercepted {s : State} (h : s.cfg.hostInterceptsDebug = true) :
    debugEvent s = s.returnToHost .hitBreakpoint := if_pos h

theorem debugEvent_of_notIntercepted {s : State} (h : s.cfg.hostInterceptsDebug = false) :
    debugEvent s = (dispatch .debugBreak s.pc s).returnToHost .hitBreakpoint := if_neg (by simp [h])

/-- A breakpoint is left to the host, which keeps what is privileged, or dispatched. -/
theorem debugEvent_privileged (s : State) : KeepsPrivileged s (debugEvent s) ∨ HandlerEntered s (debugEvent s) := by
  cases hh : s.cfg.hostInterceptsDebug
  · right
    rw [debugEvent_of_notIntercepted hh]
    exact handlerEntered_dispatch .debugBreak s.pc s
  · left
    rw [debugEvent_of_intercepted hh]
    exact keepsPrivileged_of (returnToHost_readCtl s _) rfl

/-- Settles O54: the Engine's own fields that a step sets before and after are none that the three outcomes speak of. -/
theorem userModeCannotReachSupervisorState : Obligations.UserModeCannotReachSupervisorState := by
  intro s t hu h
  obtain ⟨hr, ⟨-, -, rfl⟩ | ⟨-, rfl⟩ | ⟨-, rfl⟩ | ⟨-, v, hv, rfl⟩⟩ := cycle_next h
  · exact .inl ⟨returnToHost_readCtl s _, hu, rfl⟩
  · exact .inr (.inl (handlerEntered_dispatch .interrupt s.pc s.beginStep))
  · obtain ⟨hctl, hmode, htlb⟩ | hentered := debugEvent_privileged s.beginStep
    · exact .inl ⟨hctl, hmode.trans hu, htlb⟩
    · exact .inr (.inl hentered)
  · obtain ⟨c, hd⟩ | ⟨w, i, hw, hi, heffect⟩ := fetchDecodeExecute_cases (s := s.beginStep) (aligned4_of_refusal hr) hv
    · have hentered : HandlerEntered s.beginStep v := handlerEntered_of_dispatched hd
      exact .inr (.inl hentered)
    obtain ⟨hctl, hmode, htlb⟩ | hentered | ⟨rfl, hp, u, rfl⟩ := effect_of_user (s := s.beginStep) hu heffect
    · exact .inl ⟨hctl, hmode.trans hu, htlb⟩
    · exact .inr (.inl hentered)
    · exact .inr (.inr ⟨hp, ⟨w, hw, hi⟩, rfl, rfl, fun n hn => returnFromException_readCtl_of_ne u s.beginStep hn⟩)

/-! ### Leaving the Exception-active state (60_exceptions.md R310) -/

theorem debugEvent_eh {s : State} (h : s.eh = true) : (debugEvent s).eh = true := by
  cases hh : s.cfg.hostInterceptsDebug
  · rw [debugEvent_of_notIntercepted hh]
    exact (dispatch_enters .debugBreak s.pc s).eh
  · rw [debugEvent_of_intercepted hh]
    exact h

/-- An instruction that leaves the state wrote `status` with EH = 0, so it is one of the two writers of `quiet_status`. -/
theorem eh_cleared_of_fetchDecodeExecute {s t : State} (hp : aligned4 s.pc = true) (heh : s.eh = true)
    (ht : t.eh = false) (h : fetchDecodeExecute s = .next t) :
    ∃ w, s.fetchWord = .word w ∧
      ((decode w = .valid .eret ∧ s.estatus.getLsbD 2 = false) ∨
       (∃ ra, decode w = .valid (.wrctl 0#5 ra) ∧ s.user = false ∧ (s.readReg ra).getLsbD 2 = false)) := by
  have hdispatched {c : Cause} (hd : Dispatched s t c) : False := by simp [hd.enters.eh] at ht
  obtain ⟨c, hd⟩ | ⟨w, i, hw, hi, heffect⟩ := fetchDecodeExecute_cases hp h
  · exact (hdispatched hd).elim
  obtain ⟨c, hd⟩ | hquiet := effect_dispatched_or_quiet heffect
  · exact (hdispatched hd).elim
  refine ⟨w, hw, ?_⟩
  obtain hkept | ⟨rfl, hstatus⟩ | ⟨ra, rfl, hu, hstatus⟩ := quiet_status hquiet
  · rw [eh_congr hkept, heh] at ht
    cases ht
  · exact .inl ⟨hi, by rw [← hstatus]; exact ht⟩
  · exact .inr ⟨ra, hi, hu, by rw [← hstatus]; exact ht⟩

/-- Settles O55: a stop request keeps `status`, and an interrupt or a breakpoint that is dispatched leaves EH = 1. -/
theorem onlyEretAndWrctlStatusClearEh : Obligations.OnlyEretAndWrctlStatusClearEh := by
  intro s t heh ht h
  have hactive {u : State} (hu : u.eh = true) (hut : t.eh = u.eh) : False := by simp [hut, hu] at ht
  obtain ⟨hr, ⟨-, -, rfl⟩ | ⟨-, rfl⟩ | ⟨-, rfl⟩ | ⟨-, u, hu, rfl⟩⟩ := cycle_next h
  · exact (hactive heh rfl).elim
  · exact (hactive (dispatch_enters .interrupt s.pc s.beginStep).eh rfl).elim
  · exact (hactive (debugEvent_eh (s := s.beginStep) heh) rfl).elim
  · exact eh_cleared_of_fetchDecodeExecute (s := s.beginStep) (t := u) (aligned4_of_refusal hr) heh ht hu

end Sys2Proof.Machine
end

section
/-! PROOFS. The encoding: O2 (the fields as numbers), O5 (the fields decode does not look at), O6 (example words). -/

namespace Sys2Proof

/-! ### Fields (30_encoding.md R111, R112, R113) -/

/-- The bits `start` to `start + len - 1` of a word, as a number (30_encoding.md R111). -/
theorem extractLsb'_toNat_eq (w : Word) (start len : Nat) :
    (w.extractLsb' start len).toNat = w.toNat / 2 ^ start % 2 ^ len := by
  rw [BitVec.extractLsb'_toNat, Nat.shiftRight_eq_div_pow]

/-- Settles O2: a field is a quotient and a remainder; those that reach bit 31 need no remainder. -/
theorem fieldsAreCutFromTheirBits : Obligations.FieldsAreCutFromTheirBits := by
  intro w
  have hw := w.isLt
  have hA : (fieldA w).toNat = w.toNat / 2 ^ 27 := by
    rw [fieldA, extractLsb'_toNat_eq]
    omega
  have hImm26 : (fieldImm26 w).toNat = w.toNat / 2 ^ 6 := by
    rw [fieldImm26, extractLsb'_toNat_eq]
    omega
  have hOp : (fieldOp w).toNat = w.toNat % 2 ^ 6 := by
    rw [fieldOp, extractLsb'_toNat_eq]
    omega
  exact ⟨hOp, hA, extractLsb'_toNat_eq w 22 5, extractLsb'_toNat_eq w 17 5, extractLsb'_toNat_eq w 11 6,
    extractLsb'_toNat_eq w 6 5, extractLsb'_toNat_eq w 6 16, hImm26⟩

/-! ### Unused fields (30_encoding.md R120) -/

/-- The constructor of the instruction a word holds, as a number; none for an illegal word. -/
def Decoded.ctor? (d : Decoded) : Option Nat := d.instr?.map Instr.ctorIdx

/-- Words with one `OPX` are in one arm of the secondary table, and an arm's operands do not change its constructor. -/
theorem decodeRegisterForm_ctor?_congr {w v : Word} (h : fieldOpx w = fieldOpx v) :
    (decodeRegisterForm w).ctor? = (decodeRegisterForm v).ctor? := by
  unfold decodeRegisterForm
  rw [h]
  split <;> rfl

/-- The same of the primary table, whose row 0x3A is the escape to the secondary one. -/
theorem decode_ctor?_congr {w v : Word} (h : fieldOp w = fieldOp v) (hx : fieldOp w = 0x3A#6 → fieldOpx w = fieldOpx v) :
    (decode w).ctor? = (decode v).ctor? := by
  by_cases hop : fieldOp w = 0x3A#6
  · rw [decode_of_registerForm hop, decode_of_registerForm (h ▸ hop)]
    exact decodeRegisterForm_ctor?_congr (hx hop)
  · unfold decode
    rw [h]
    split
    case h_44 hop' => exact absurd (BitVec.eq_of_toNat_eq (h ▸ hop')) hop
    all_goals rfl

/-- Settles O5: the arm is that of `OP`, or of `OPX` behind 0x3A, and each arm has one constructor. -/
theorem unusedFieldsAreIgnored : Obligations.UnusedFieldsAreIgnored := by
  refine ⟨fun w v h hx => decode_ctor?_congr h hx, ?_, ?_, ?_⟩
  all_goals
    intro w hop hopx
    rw [decode_of_registerForm hop, decodeRegisterForm, hopx]
    rfl

/-! ### Examples -/

/-- Settles O6, by decoding the ten words. -/
theorem sampleWordsDecode : Obligations.SampleWordsDecode := by
  unfold Obligations.SampleWordsDecode
  decide

end Sys2Proof
end

section
/-! PROOFS. Data accesses: O23 (the order of the checks), O24 (a rejected access) and O25 (an unbacked one). Each of the
sixteen forms is `load` or `store` of its width (`exec_loadForm`, `exec_storeForm`). -/

namespace Sys2Proof.Machine

/-! ### The order of the checks (20_memory.md R63, R70, R80) -/

theorem supervisorViolation_iff (s : State) (va : Word) :
    s.supervisorViolation va = true ↔
      s.cfg.mmuPresent = true ∧ s.cfg.kernelPhysBase.toNat ≤ va.toNat ∧ s.user = true := by
  rw [State.supervisorViolation, Bool.and_eq_true, Bool.and_eq_true, beq_iff_eq, bandOf_eq_kernelPhysical_iff, and_assoc]

/-- Settles O23: the two checks before translation, as propositions about the address. -/
theorem dataAccessChecksInOrder : Obligations.DataAccessChecksInOrder := by
  intro s va n k
  simp only [State.dataAddress, supervisorViolation_iff, misaligned_iff, decide_eq_true_iff]

/-! ### Rejected accesses (20_memory.md R63, R70, R74, R75) -/

theorem read_cause_code (f : MemFault) : (f.cause .read).code ∈ [6#5, 11#5, 12#5, 14#5] := by
  cases f <;> decide

theorem write_cause_code (f : MemFault) : (f.cause .write).code ∈ [6#5, 11#5, 12#5, 15#5] := by
  cases f <;> decide

/-- Settles O24: a rejected `load` or `store` raises the fault, with the code of its kind of access. -/
theorem rejectedDataAccessTakesItsException : Obligations.RejectedDataAccessTakesItsException := by
  refine ⟨fun p hp s rb ra imm16 f h => ⟨read_cause_code f, ?_⟩,
    fun p hp s rb ra imm16 f h => ⟨write_cause_code f, ?_⟩,
    fun f k => by cases f <;> cases k <;> rfl⟩
  · obtain ⟨extend, hexec⟩ := exec_loadForm p hp
    exact load_rejected (hexec rb ra imm16 s) h
  · exact store_rejected (exec_storeForm p hp rb ra imm16 s) h

/-! ### Unbacked accesses (20_memory.md R60, R87) -/

theorem backs_iff (s : State) (a : Nat) :
    s.backs a = true ↔ ∃ r ∈ s.cfg.backed, r.base ≤ a ∧ a < r.base + r.size := by
  simp [State.backs, regionHolds]

theorem backsAccess_iff (s : State) (pa : Word) (n : Width) :
    s.backsAccess pa n = true ↔ ∀ k, k < n.bytes → s.backs (byteAddress pa k) = true := by
  simp [State.backsAccess]

theorem fetchDecodeExecute_of_unbacked {s : State} {pa : Word} (ht : s.translate s.pc .fetch = .ok pa)
    (hb : s.backsAccess pa .word = false) : fetchDecodeExecute s = .fault (.unbackedAddress pa) := by
  simp [fetchDecodeExecute, State.fetchWord, ht, hb]

theorem step_of_unbacked {s : State} {pa : Word} (hr : ReadyToExecute s) (ht : s.translate s.pc .fetch = .ok pa)
    (hb : s.backsAccess pa .word = false) : step s = .fault (.unbackedAddress pa) := by
  have hf : fetchDecodeExecute s.beginStep = .fault (.unbackedAddress pa) :=
    fetchDecodeExecute_of_unbacked (s := s.beginStep) ht hb
  rw [step, step_of_ready hr, hf, mapNext]

/-- Settles O25: a load, a store and a fetch in turn, and what it is to be backed. -/
theorem unbackedAccessIsStuck : Obligations.UnbackedAccessIsStuck := by
  refine ⟨fun p hp s rb ra imm16 pa h hb => ?_, fun p hp s rb ra imm16 pa h hb => ?_,
    fun s pa hr ht hb => step_of_unbacked hr ht hb, fun s pa n => ?_⟩
  · obtain ⟨extend, hexec⟩ := exec_loadForm p hp
    exact load_unbacked (hexec rb ra imm16 s) h hb
  · exact store_unbacked (exec_storeForm p hp rb ra imm16 s) h hb
  · simp only [backsAccess_iff, backs_iff]

end Sys2Proof.Machine
end

section
/-! PROOFS. The step of the Engine: O7 and O10 (the instruction at `pc`), O46 (stop request), O47 (breakpoint), O48 (states
without a meaning), O56 (block boundaries). -/

namespace Sys2Proof.Machine

/-! ### The instruction at `pc` (48_engine_step.md R291, R293) -/

/-- A word is fetched only from a translated and backed address. -/
theorem fetchWord_eq_word {s : State} {w : Word} (h : s.fetchWord = .word w) :
    ∃ pa, s.translate s.pc .fetch = .ok pa ∧ s.backsAccess pa .word = true ∧ s.mem.value pa .word = w := by
  unfold State.fetchWord at h
  split at h
  · cases h
  · next pa ht =>
    split at h
    · next hb => exact ⟨pa, ht, hb, Fetched.word.inj h⟩
    · cases h

/-- A step in a ready state whose fetched word holds an instruction, implemented or not, is `exec` of it. -/
theorem step_of_instr {s : State} {pa : Word} {i : Instr} (hr : ReadyToExecute s) (ht : s.translate s.pc .fetch = .ok pa)
    (hb : s.backsAccess pa .word = true) (hd : (decode (s.mem.value pa .word)).instr? = some i) :
    step s = mapNext s.endStep (exec i s.beginStep) := by
  rw [step, step_of_ready hr, fetchDecodeExecute_of_instr (s := s.beginStep) ht hb hd]

/-- Settles O7: the little-endian word at the translated address is the one `fetchWord` reads. -/
theorem stepRunsTheDecodedInstruction : Obligations.StepRunsTheDecodedInstruction := by
  refine ⟨fun s pa i hr ht hb hd => ?_, fun _ => rfl, fun _ _ => rfl⟩
  rw [step_of_instr hr ht hb hd]
  exact ⟨fun t h => by rw [h, mapNext], fun f h => by rw [h, mapNext], fun r h => by rw [h, mapNext]⟩

/-! ### A placed instruction (log 18) -/

theorem tableWord_toNat (w : Word) : tableWord 32 w.toNat = w := by
  rw [tableWord, Nat.mod_eq_of_lt w.isLt, BitVec.ofNat_toNat, BitVec.setWidth_eq]

theorem withFetchWord_of_translate {s : State} {pa : Word} (ht : s.translate s.pc .fetch = .ok pa) (w : Word) :
    s.withFetchWord 32 w.toNat = { s with mem := s.mem.store pa .word w } := by
  simp only [State.withFetchWord, State.storeFetchWord, ht, tableWord_toNat]

/-- No check before the instruction looks at memory. -/
theorem readyToExecute_of_mem {s : State} (h : ReadyToExecute s) (mem : Memory) : ReadyToExecute { s with mem := mem } := by
  obtain ⟨hmeaningful, hnotStopped, hnotInterrupted, hnoBreakpoint⟩ := h
  exact ⟨hmeaningful, hnotStopped, hnotInterrupted, hnoBreakpoint⟩

theorem decode_encode_instr? (i : Instr) : (decode (encode i)).instr? = some i := by
  rw [decode_encode]
  split <;> rfl

/-- Settles O10: the word that was stored is the word fetched, since translation does not look at memory. -/
theorem placedInstructionRunsNext : Obligations.PlacedInstructionRunsNext := by
  intro s pa i hr hwf ht hb
  rw [withFetchWord_of_translate ht (encode i)]
  refine ⟨rfl, step_of_instr (readyToExecute_of_mem hr _) ht hb ?_⟩
  rw [Memory.value_store_word hwf]
  exact decode_encode_instr? i

/-! ### The stop request (48_engine_step.md R290, R296) -/

theorem step_of_stopRequest {s : State} (hr : s.refusal = none) (hb : s.isBlockBoundary = true) (hs : s.stopFlag = true) :
    step s = .next (s.returnToHost .haltedByRequest) := by
  rw [step, cycle, hr]
  simp [hb, hs]

/-- Settles O46: a return to the host writes two of the Engine's own fields. -/
theorem stopRequestReturnsAtABlockBoundary : Obligations.StopRequestReturnsAtABlockBoundary := fun s hr hb hs =>
  ⟨_, step_of_stopRequest hr hb hs, rfl, returnToHost_readReg s _, rfl, returnToHost_readCtl s _, rfl, fun _ => rfl,
    keepsInputs_of rfl rfl rfl rfl rfl rfl, rfl⟩

/-! ### The breakpoint (48_engine_step.md R297) -/

theorem step_of_breakpoint {s : State} (hr : s.refusal = none) (hs : (s.isBlockBoundary && s.stopFlag) = false)
    (ht : s.takesInterrupt = false) (hb : s.pc ∈ s.breakpoints) :
    step s = .next (s.endStep (debugEvent s.beginStep)) := by
  rw [step_of_notInterrupted hr hs ht, if_pos hb]

/-- Settles O47: `debugEvent` by the parameter. -/
theorem breakpointMatchIsADebugEvent : Obligations.BreakpointMatchIsADebugEvent := by
  intro s hr hs ht hb
  rw [step_of_breakpoint hr hs ht hb]
  constructor
  · intro hh
    rw [debugEvent_of_notIntercepted (s := s.beginStep) hh]
    exact ⟨_, _, rfl, dispatch_enters .debugBreak s.pc s.beginStep, dispatch_savesBreak s.pc s.beginStep,
      dispatch_keepsOtherCtl rfl s.pc s.beginStep, rfl⟩
  · intro hh
    rw [debugEvent_of_intercepted (s := s.beginStep) hh]
    exact ⟨_, rfl, fun q => by simp, rfl, fun n => by simp, rfl, fun _ => rfl, rfl⟩

/-! ### States without a meaning (93_implementation_defined.md U1, U6, U15) -/

theorem fetchDecodeExecute_ne_refused (s : State) (r : Refusal) : fetchDecodeExecute s ≠ .refused r := by
  unfold fetchDecodeExecute
  split
  · nofun
  · nofun
  · split
    · exact exec_ne_refused _ s r
    · exact exec_ne_refused _ s r
    · nofun

theorem mapNext_ne_refused {f : State → State} {x : Result} (h : ∀ r, x ≠ .refused r) (r : Refusal) :
    mapNext f x ≠ .refused r := by
  cases x with
  | next s => nofun
  | fault e => nofun
  | refused e => exact absurd rfl (h e)

/-- A state that the first check lets pass has an outcome that is no refusal. -/
theorem step_ne_refused {s : State} (hr : s.refusal = none) (r : Refusal) : step s ≠ .refused r := by
  rw [step, cycle, hr]
  dsimp only
  split
  · nofun
  · split
    · nofun
    · split
      · nofun
      · exact mapNext_ne_refused (fetchDecodeExecute_ne_refused s.beginStep) r

theorem step_refused_iff (s : State) (r : Refusal) : step s = .refused r ↔ s.refusal = some r := by
  cases hr : s.refusal with
  | none => exact iff_of_false (step_ne_refused hr r) nofun
  | some e => simp [step, cycle, hr]

theorem aligned4_eq_false_iff (v : Word) : aligned4 v = false ↔ v.toNat % 4 ≠ 0 := by
  rw [Ne, ← aligned4_iff, Bool.not_eq_true]

theorem validConfig_eq_false_iff (c : Config) :
    validConfig c = false ↔
      c.resetAddr.toNat % 4 ≠ 0 ∨ c.exceptionAddr.toNat % 4 ≠ 0 ∨ c.fastTlbMissAddr.toNat % 4 ≠ 0 := by
  simp only [validConfig, Bool.and_eq_false_iff, aligned4_eq_false_iff, or_assoc]

theorem refusal_iff (s : State) :
    (∃ r, s.refusal = some r) ↔ validConfig s.cfg = false ∨ aligned4 s.pc = false ∨ (s.eh = true ∧ s.user = true) := by
  unfold State.refusal
  split
  · next h => exact iff_of_true ⟨_, rfl⟩ (.inl (by simpa using h))
  · next hconfig =>
    split
    · next h => exact iff_of_true ⟨_, rfl⟩ (.inr (.inl (by simpa using h)))
    · next hpc =>
      split
      · next h => exact iff_of_true ⟨_, rfl⟩ (.inr (.inr (by simpa using h)))
      · next hmode => exact iff_of_false nofun (by simp_all)

/-- Settles O48: a step is refused exactly where `State.refusal` has a name to answer. -/
theorem stepRefusesStatesWithoutMeaning : Obligations.StepRefusesStatesWithoutMeaning := by
  intro s
  simp only [step_refused_iff, refusal_iff, validConfig_eq_false_iff, aligned4_eq_false_iff, or_assoc]
  rfl

/-! ### Block boundaries (48_engine_step.md R295) -/

theorem isBlockBoundary_iff (s : State) :
    s.isBlockBoundary = true ↔ s.blockBoundary = true ∨ s.stopped = true ∨ s.pc ∈ s.breakpoints ∨
      s.pc.toNat % 2 ^ s.cfg.pageBits = 0 := by
  simp [State.isBlockBoundary, or_assoc]

theorem isBlockBoundary_of_blockBoundary {s : State} (h : s.blockBoundary = true) : s.isBlockBoundary = true :=
  (isBlockBoundary_iff s).2 (.inl h)

/-- A step whose last act ended the block leaves a block boundary. -/
theorem endStep_isBlockBoundary {s u : State} (h : u.blockBoundary = true) : (s.endStep u).isBlockBoundary = true :=
  isBlockBoundary_of_blockBoundary (by simp [State.endStep, h])

theorem endStep_isBlockBoundary_of_budget {s : State} (u : State)
    (h : s.cfg.blockBudget ≤ (if s.isBlockBoundary then 0 else s.blockCount) + 1) :
    (s.endStep u).isBlockBoundary = true :=
  isBlockBoundary_of_blockBoundary (by simp [State.endStep, h])

theorem debugEvent_blockBoundary (s : State) : (debugEvent s).blockBoundary = true := by
  unfold debugEvent
  split <;> rfl

/-- A step returns a stop request, or goes through `endStep`. -/
theorem step_next_cases {s t : State} (h : step s = .next t) :
    t = s.returnToHost .haltedByRequest ∨ ∃ u, t = s.endStep u := by
  obtain ⟨-, ⟨-, -, rfl⟩ | ⟨-, rfl⟩ | ⟨-, rfl⟩ | ⟨-, u, -, rfl⟩⟩ := cycle_next h
  · exact .inl rfl
  · exact .inr ⟨_, rfl⟩
  · exact .inr ⟨_, rfl⟩
  · exact .inr ⟨u, rfl⟩

/-- Two accounts of one step agree, so a step that ended a block by one of them ended it. -/
theorem isBlockBoundary_of_step {s t u : State} (h : step s = .next t) (hstep : step s = .next (s.endStep u))
    (hu : u.blockBoundary = true) : t.isBlockBoundary = true := by
  cases h.symm.trans hstep
  exact endStep_isBlockBoundary hu

/-- Settles O56: (b) and (c) are read off the state, (d) is the count of `endStep`, and every dispatch ends the block. -/
theorem blockBoundariesFollowTheirCauses : Obligations.BlockBoundariesFollowTheirCauses := by
  intro s t h
  have hrefusal : s.refusal = none := (cycle_next h).1
  refine ⟨fun hpage => (isBlockBoundary_iff t).2 (.inr (.inr (.inr hpage))),
    fun hbreak => (isBlockBoundary_iff t).2 (.inr (.inr (.inl hbreak))), fun hbudget => ?_, fun hs ht => ?_,
    fun hs ht hb => ?_, fun hr ⟨f, hf⟩ => ?_, fun hr ⟨w, hw, hd⟩ => ?_, fun hr ⟨w, i, c, va, u, hw, hd, hx⟩ => ?_,
    fun c va u ht => ?_, ?_⟩
  · obtain rfl | ⟨u, rfl⟩ := step_next_cases h
    · exact isBlockBoundary_of_blockBoundary rfl
    · exact endStep_isBlockBoundary_of_budget u hbudget
  · exact isBlockBoundary_of_step h (step_of_takesInterrupt hrefusal hs ht) (dispatch_blockBoundary _ _ _)
  · exact isBlockBoundary_of_step h (step_of_breakpoint hrefusal hs ht hb) (debugEvent_blockBoundary _)
  · exact isBlockBoundary_of_step h (step_of_rejected hr hf) (dispatch_blockBoundary _ _ _)
  · obtain ⟨pa, ht, hb, rfl⟩ := fetchWord_eq_word hw
    exact isBlockBoundary_of_step h (step_of_illegal hr ht hb hd) (dispatch_blockBoundary _ _ _)
  · obtain ⟨pa, ht, hb, rfl⟩ := fetchWord_eq_word hw
    have hstep : step s = .next (s.endStep (dispatch c va u)) := by rw [step_of_instr hr ht hb hd, hx, mapNext]
    exact isBlockBoundary_of_step h hstep (dispatch_blockBoundary _ _ _)
  · rw [ht]
    exact endStep_isBlockBoundary (dispatch_blockBoundary _ _ _)
  · have hcfg : t.cfg = s.cfg := (step_keepsInputs h).1
    obtain rfl | ⟨u, rfl⟩ := step_next_cases h
    · exact .inl (isBlockBoundary_of_blockBoundary rfl)
    · exact (endStep_withinBudget s u hcfg).imp_left isBlockBoundary_of_blockBoundary

end Sys2Proof.Machine
end

section
/-! PROOFS. Control registers and the host's moves: O38 (`wrctl` outside the TLB protocols), O42 (`tlbmisc` and the vector of
a TLB fault), O59 (what the host and the devices change). A host write and a `wrctl` are one `State.storeCtl`. -/

namespace Sys2Proof.Machine

/-! ### Storing a control register (45_system.md R265, 10_state.md R33) -/

/-- `ipending` is computed from `ienable` as stored. -/
theorem storeCtl_ipending (s : State) (n : RegNum) (v : Word) :
    (s.storeCtl n v).readCtl 4#5 = (s.storeCtl n v).readCtl 3#5 &&& s.lines := by
  rw [← storeCtl_lines s n v]
  rfl

theorem exec_wrctl_user {s : State} (h : s.user = true) (n ra : RegNum) :
    exec (.wrctl n ra) s = raise .illegalInstruction s := if_pos h

/-- Settles O38: outside the two protocols `writeCtl` is the store, in the frame of every `wrctl`. -/
theorem wrctlStoresAControlRegister : Obligations.WrctlStoresAControlRegister := by
  refine ⟨decodesRegisterForm_of fun w hopx => by rw [decodeRegisterForm, hopx]; rfl, fun s n ra hu hplain => ?_,
    fun s n ra hu => raises_of_raise (exec_wrctl_user hu n ra) (by decide) rfl⟩
  obtain ⟨hregs, hpc, hblock, hmem, hinputs, hrun⟩ := wrctl_frame s n (s.readReg ra)
  refine ⟨_, exec_wrctl_supervisor hu, hregs, hpc, hblock, hmem, hinputs, hrun, ?_⟩
  simp only [endBlock_tlb, advance_tlb, endBlock_readCtl, advance_readCtl, writeCtl_plain _ hplain]
  exact ⟨storeCtl_tlb s n _, storeCtl_readCtl_self s n _, fun m hne h4 => storeCtl_readCtl_of_ne s n m _ hne h4,
    storeCtl_ipending s n _⟩

/-! ### TLB faults (60_exceptions.md R323, R324, R326) -/

theorem tlbmiscWe_setTlbmiscDbl (v : Word) (b : BitVec 1) : tlbmiscWe (setTlbmiscDbl v b) = tlbmiscWe v :=
  setTlbmiscDbl_bit v b 18 (by omega)

theorem tlbmiscDbl_setTlbmiscWe (v : Word) (b : BitVec 1) : tlbmiscDbl (setTlbmiscWe v b) = tlbmiscDbl v :=
  setTlbmiscWe_bit v b 3 (by omega)

theorem dispatch_tlbMiss_first {s : State} (h : s.eh = false) (pc : Word) :
    tlbmiscWe (dispatch .tlbMiss pc s).tlbmisc = true ∧ tlbmiscDbl (dispatch .tlbMiss pc s).tlbmisc = false ∧
      (dispatch .tlbMiss pc s).pc = s.cfg.fastTlbMissAddr := by
  rw [dispatch_tlbmisc_miss_first h, tlbmiscWe_setTlbmiscDbl, tlbmiscWe_set, tlbmiscDbl_set,
    (dispatch_enters .tlbMiss pc s).vector, if_pos ⟨rfl, h⟩]
  exact ⟨rfl, rfl, rfl⟩

/-- The fast vector is that of a first-entry TLB miss alone. -/
theorem dispatch_pc_general {c : Cause} {s : State} (h : c ≠ .tlbMiss ∨ s.eh = true) (pc : Word) :
    (dispatch c pc s).pc = s.cfg.exceptionAddr := by
  rw [(dispatch_enters c pc s).vector, if_neg]
  rintro ⟨hc, heh⟩
  exact h.elim (fun hne => hne hc) (fun hnested => by simp [heh] at hnested)

theorem dispatch_tlbMiss_nested {s : State} (h : s.eh = true) (pc : Word) :
    tlbmiscWe (dispatch .tlbMiss pc s).tlbmisc = tlbmiscWe s.tlbmisc ∧
      tlbmiscDbl (dispatch .tlbMiss pc s).tlbmisc = true ∧ (dispatch .tlbMiss pc s).pc = s.cfg.exceptionAddr := by
  rw [dispatch_tlbmisc_miss_nested h, tlbmiscWe_setTlbmiscDbl, tlbmiscDbl_set]
  exact ⟨rfl, rfl, dispatch_pc_general (.inr h) pc⟩

theorem dispatch_tlbPermission {c : Cause} (hc : c.tlbRow = .permission) (pc : Word) (s : State) :
    (s.eh = false → tlbmiscWe (dispatch c pc s).tlbmisc = true ∧ tlbmiscDbl (dispatch c pc s).tlbmisc = false) ∧
      (s.eh = true → (dispatch c pc s).tlbmisc = s.tlbmisc) := by
  refine ⟨fun h => ?_, fun h => dispatch_tlbmisc_permission_nested hc h pc⟩
  rw [dispatch_tlbmisc_permission_first hc h, tlbmiscWe_set, tlbmiscDbl_setTlbmiscWe, tlbmiscDbl_set]
  exact ⟨rfl, rfl⟩

/-- Settles O42: the miss by EH, the three permission causes as one row, and the vector. -/
theorem fastAndDoubleTlbMiss : Obligations.FastAndDoubleTlbMiss := by
  refine ⟨fun pc s h => dispatch_tlbMiss_first h pc, fun pc s h => dispatch_tlbMiss_nested h pc,
    fun c hc pc s => dispatch_tlbPermission ?_ pc s, fun c pc s h => dispatch_pc_general h pc⟩
  simp only [List.mem_cons, List.not_mem_nil, or_false] at hc
  obtain rfl | rfl | rfl := hc <;> rfl

/-! ### Moves between steps (10_state.md R49; 48_engine_step.md R302) -/

theorem applyHost_of_stopped {s : State} (h : s.stopped = true) (m : HostMove) : applyHost m s = some (hostEffect m s) :=
  (applyHost_eq_some m s _).2 ⟨h, rfl⟩

theorem applyHost_of_running {s : State} (h : s.run = .running) (m : HostMove) : applyHost m s = none := by
  simp [applyHost, State.stopped, h]

theorem mem_addBreakpoint (va a : Word) (bs : List Word) :
    a ∈ va :: bs.filter (fun b => b != va) ↔ a = va ∨ a ∈ bs := by
  by_cases h : a = va
  · simp [h]
  · simp [h]

theorem mem_removeBreakpoint (va a : Word) (bs : List Word) :
    a ∈ bs.filter (fun b => b != va) ↔ a ≠ va ∧ a ∈ bs := by
  simp [and_comm]

/-- A host write of a register writes it as every rule does (log 17). -/
theorem hostEffect_writeReg_frame (s : State) (r : RegNum) (v : Word) :
    WritesReg s (hostEffect (.writeReg r v) s) r v ∧ (hostEffect (.writeReg r v) s).pc = s.pc ∧
      (hostEffect (.writeReg r v) s).blockBoundary = s.blockBoundary ∧ KeepsRest s (hostEffect (.writeReg r v) s) := by
  simp only [hostEffect]
  exact ⟨readReg_writeReg s r v, by simp, by simp, fun n => by simp, by simp, fun a => by simp,
    keepsInputs_of (by simp) (by simp) (by simp) (by simp) (by simp) (by simp), by simp⟩

theorem hostEffect_writeCtl_frame (s : State) (n : RegNum) (v : Word) :
    KeepsRegs s (hostEffect (.writeCtl n v) s) ∧ (hostEffect (.writeCtl n v) s).pc = s.pc ∧
      (hostEffect (.writeCtl n v) s).tlb = s.tlb ∧ KeepsMemory s (hostEffect (.writeCtl n v) s) ∧
      KeepsInputs s (hostEffect (.writeCtl n v) s) ∧ (hostEffect (.writeCtl n v) s).run = s.run := by
  simp only [hostEffect]
  exact ⟨fun q => by simp, by simp, by simp, fun a => by simp,
    keepsInputs_of (by simp) (by simp) (by simp) (by simp) (by simp) (by simp), by simp⟩

/-- No live move lowers the stop flag. -/
theorem applyLive_frame (m : LiveMove) (s : State) :
    ∃ l mem f, applyLive m s = { s with lines := l, mem := mem, stopFlag := f } ∧ (s.stopFlag = true → f = true) := by
  cases m with
  | setLine n level => exact ⟨_, _, _, rfl, id⟩
  | deviceWrite pa b => exact ⟨_, _, _, rfl, id⟩
  | raiseStop => exact ⟨_, _, _, rfl, fun _ => rfl⟩

/-- Settles O59: where the core is stopped a host move is its effect, and each effect has its own frame. -/
theorem hostActsOnlyOnAStoppedCore : Obligations.HostActsOnlyOnAStoppedCore := by
  refine ⟨fun m s h => applyHost_of_running h m,
    fun s r v h => ⟨_, applyHost_of_stopped h _, hostEffect_writeReg_frame s r v⟩, fun s n v h => ?_,
    fun s v h => applyHost_of_stopped h _,
    fun s va h => ⟨_, applyHost_of_stopped h _, fun a => mem_addBreakpoint va a s.breakpoints⟩,
    fun s va h => ⟨_, applyHost_of_stopped h _, fun a => mem_removeBreakpoint va a s.breakpoints⟩,
    fun s up h => applyHost_of_stopped h _, fun s tlb h => applyHost_of_stopped h _, applyLive_frame,
    fun s n level => ⟨_, rfl, fun k _ => setLineBit_bit s.lines n level k⟩,
    fun s pa b hwf => ⟨_, rfl, Memory.wf_write hwf _ b pa.isLt, ?_, fun a ha => ?_⟩, fun s => rfl⟩
  · obtain ⟨hregs, hpc, htlb, hmem, hinputs, hrun⟩ := hostEffect_writeCtl_frame s n v
    exact ⟨_, applyHost_of_stopped h _, hregs, hpc, htlb, hmem, hinputs, hrun, storeCtl_readCtl_self s n v,
      fun m hne h4 => storeCtl_readCtl_of_ne s n m v hne h4, storeCtl_ipending s n v⟩
  · rw [Memory.read_write hwf, if_pos rfl]
  · rw [Memory.read_write hwf, if_neg ha]

end Sys2Proof.Machine
end

section
/-! PROOFS. Runs of the host: O57 (48_engine_step.md R295, R298, R300). A run from `s` goes on through its first step, and
then it is a run from the next state; `StandsAtFirstBoundary` moves along in the same way, so the state that a run with a
used-up budget returns and the first block boundary are found by one induction. -/

namespace Sys2Proof.Machine

/-! ### Why a step returns (48_engine_step.md R300) -/

theorem effect_run {i : Instr} {s t : State} (h : Effect i s t) : t.run = s.run ∨ t.run = .returned .hitBreakpoint := by
  cases h with
  | hostBreak _ _ => exact .inr rfl
  | _ => left; simp [raiseMemFault]

theorem debugEvent_run (s : State) : (debugEvent s).run = .returned .hitBreakpoint := by
  unfold debugEvent
  split <;> rfl

theorem step_run {s t : State} (h : step s = .next t) :
    t.run = .running ∨ t.run = .returned .hitBreakpoint ∨ t.run = .returned .haltedByRequest := by
  obtain ⟨hr, ⟨-, -, rfl⟩ | ⟨-, rfl⟩ | ⟨-, rfl⟩ | ⟨-, u, hu, rfl⟩⟩ := cycle_next h
  · exact .inr (.inr rfl)
  · exact .inl (dispatch_run _ _ _)
  · exact .inr (.inl (debugEvent_run _))
  · obtain ⟨i, heffect⟩ := fetchDecodeExecute_effect (s := s.beginStep) (aligned4_of_refusal hr) hu
    exact (effect_run heffect).imp_right .inl

/-! ### Runs come back stopped (48_engine_step.md R298) -/

/-- Where a run ends by coming back to the host, the state holds the reason it gives. -/
def ComesBackStopped (e : RunEnd) : Prop := ∀ why t, e = .returned why t → t.run = .returned why

theorem comesBackStopped_exitAtBudget (s : State) : ComesBackStopped (exitAtBudget s) := by
  intro why t h
  cases h
  rfl

theorem comesBackStopped_afterStep {r : Result} {next : State → RunEnd} (hnext : ∀ u, ComesBackStopped (next u)) :
    ComesBackStopped (afterStep r next) := by
  intro why t h
  obtain ⟨-, hrun⟩ | ⟨u, -, -, hu⟩ := afterStep_returned h
  · exact hrun
  · exact hnext u why t hu

theorem comesBackStopped_runToBlockEnd (fuel : Nat) (moves : List (List LiveMove)) (s : State) :
    ComesBackStopped (runToBlockEnd fuel moves s) := by
  induction fuel generalizing moves s with
  | zero => exact comesBackStopped_exitAtBudget s
  | succ k ih =>
    rw [runToBlockEnd]
    split
    · exact comesBackStopped_exitAtBudget s
    · exact comesBackStopped_afterStep (ih moves.tail)

theorem comesBackStopped_runUntil (budget : Nat) (moves : List (List LiveMove)) (s : State) :
    ComesBackStopped (runUntil budget moves s) := by
  induction budget generalizing moves s with
  | zero => exact comesBackStopped_runToBlockEnd _ moves s
  | succ k ih => exact comesBackStopped_afterStep (ih moves.tail)

theorem stopped_of_returned {s : State} {why : ReturnReason} (h : s.run = .returned why) : s.stopped = true :=
  (stopped_iff s).2 (by simp [h])

/-! ### One step into a run -/

/-- A run from `s` makes the first live moves and a step to `v`, and goes on. -/
def GoesOn (moves : List (List LiveMove)) (s v : State) : Prop :=
  step (applyLives (moves.headD []) s) = .next v ∧ v.run = .running

theorem goesOn_unique {moves : List (List LiveMove)} {s v w : State} (hv : GoesOn moves s v) (hw : GoesOn moves s w) :
    v = w := by
  obtain ⟨hv, -⟩ := hv
  obtain ⟨hw, -⟩ := hw
  cases hv.symm.trans hw
  rfl

theorem goesOn_cfg {moves : List (List LiveMove)} {s v : State} (h : GoesOn moves s v) : v.cfg = s.cfg := by
  rw [(step_keepsInputs h.1).1, applyLives_cfg]

theorem goesOn_machineInv {moves : List (List LiveMove)} {s v : State} (hinv : MachineInv s) (h : GoesOn moves s v) :
    MachineInv v :=
  stepKeepsTheMachineInvariant _ _ (machineInv_applyLives hinv _) h.1

/-- Inside a block a step that goes on counts one more instruction. -/
theorem goesOn_blockCount {moves : List (List LiveMove)} {s v : State} (h : GoesOn moves s v)
    (hb : s.isBlockBoundary = false) : v.blockCount = s.blockCount + 1 := by
  obtain ⟨hstep, hrun⟩ := h
  obtain rfl | ⟨u, rfl⟩ := step_next_cases hstep
  · cases hrun
  · simp [State.endStep, hb]

theorem stepsOfRun_succ_goesOn (n : Nat) (moves : List (List LiveMove)) (s u : State) :
    stepsOfRun (n + 1) moves s = some u ↔ ∃ v, GoesOn moves s v ∧ stepsOfRun n moves.tail v = some u := by
  simp only [stepsOfRun_succ, GoesOn, and_assoc]

/-- A step never returns with "exited normally at budget", so a run that does has gone on. -/
theorem afterStep_exitedAtBudget_iff (moves : List (List LiveMove)) (s t : State) (next : State → RunEnd) :
    afterStep (step (applyLives (moves.headD []) s)) next = .returned .exitedAtBudget t ↔
      ∃ v, GoesOn moves s v ∧ next v = .returned .exitedAtBudget t := by
  constructor
  · intro h
    obtain ⟨hstep, hrun⟩ | ⟨v, hstep, hgoes, hv⟩ := afterStep_returned h
    · obtain hr | hr | hr := step_run hstep <;> simp [hr] at hrun
    · obtain hr | hr | hr := step_run hstep
      · exact ⟨v, ⟨hstep, hr⟩, hv⟩
      · exact absurd hr (hgoes _)
      · exact absurd hr (hgoes _)
  · rintro ⟨v, ⟨hstep, hrun⟩, hv⟩
    rw [afterStep_running hstep hrun, hv]

/-! ### The first block boundary at or after the budget -/

/-- With the budget used up at a block boundary, the run is there. -/
theorem standsAtFirstBoundary_here {moves : List (List LiveMove)} {s : State} (hb : s.isBlockBoundary = true) (n : Nat)
    (u : State) : StandsAtFirstBoundary 0 moves s n u ↔ n = 0 ∧ u = s := by
  constructor
  · rintro ⟨-, hreached, -, hfirst⟩
    obtain rfl : n = 0 := by
      by_contra hn
      have := hfirst 0 s (by omega) (by omega) rfl
      simp [hb] at this
    exact ⟨rfl, (Option.some.inj hreached).symm⟩
  · rintro ⟨rfl, rfl⟩
    exact ⟨le_rfl, rfl, hb, fun m v _ hm => absurd hm (by omega)⟩

/-- Otherwise the run goes on, and what it looks for is one step nearer. -/
theorem standsAtFirstBoundary_succ {budget : Nat} {moves : List (List LiveMove)} {s : State}
    (h : 0 < budget ∨ s.isBlockBoundary = false) (n : Nat) (u : State) :
    StandsAtFirstBoundary budget moves s n u ↔
      ∃ m v, n = m + 1 ∧ GoesOn moves s v ∧ StandsAtFirstBoundary (budget - 1) moves.tail v m u := by
  constructor
  · rintro ⟨hused, hreached, hboundary, hfirst⟩
    cases n with
    | zero =>
      obtain rfl : s = u := Option.some.inj hreached
      exact absurd (h.resolve_right (by simp [hboundary])) (by omega)
    | succ m =>
      obtain ⟨v, hgoes, hv⟩ := (stepsOfRun_succ_goesOn m moves s u).1 hreached
      refine ⟨m, v, rfl, hgoes, by omega, hv, hboundary, fun j w hj hjm hw => ?_⟩
      exact hfirst (j + 1) w (by omega) (by omega) ((stepsOfRun_succ_goesOn j moves s w).2 ⟨v, hgoes, hw⟩)
  · rintro ⟨m, v, rfl, hgoes, hused, hv, hboundary, hfirst⟩
    refine ⟨by omega, (stepsOfRun_succ_goesOn m moves s u).2 ⟨v, hgoes, hv⟩, hboundary, fun j w hj hjm hw => ?_⟩
    cases j with
    | zero =>
      obtain rfl : s = w := Option.some.inj hw
      exact h.resolve_left (by omega)
    | succ k =>
      obtain ⟨v', hgoes', hw'⟩ := (stepsOfRun_succ_goesOn k moves s w).1 hw
      obtain rfl := goesOn_unique hgoes hgoes'
      exact hfirst k w (by omega) (by omega) hw'

/-- What a run comes back with when it comes back at the budget: the first block boundary from there. -/
def ExitsAtFirstBoundary (budget : Nat) (moves : List (List LiveMove)) (s : State) (e : RunEnd) : Prop :=
  ∀ t, e = .returned .exitedAtBudget t ↔
    ∃ n u, StandsAtFirstBoundary budget moves s n u ∧ t = u.returnToHost .exitedAtBudget

theorem exitsAtFirstBoundary_here {moves : List (List LiveMove)} {s : State} (hb : s.isBlockBoundary = true) :
    ExitsAtFirstBoundary 0 moves s (exitAtBudget s) := by
  intro t
  simp [standsAtFirstBoundary_here hb, exitAtBudget, eq_comm]

theorem exitsAtFirstBoundary_succ {budget : Nat} {moves : List (List LiveMove)} {s : State} {next : State → RunEnd}
    (h : 0 < budget ∨ s.isBlockBoundary = false)
    (hnext : ∀ v, GoesOn moves s v → ExitsAtFirstBoundary (budget - 1) moves.tail v (next v)) :
    ExitsAtFirstBoundary budget moves s (afterStep (step (applyLives (moves.headD []) s)) next) := by
  intro t
  rw [afterStep_exitedAtBudget_iff]
  constructor
  · rintro ⟨v, hgoes, hv⟩
    obtain ⟨n, u, hu, rfl⟩ := (hnext v hgoes t).1 hv
    exact ⟨n + 1, u, (standsAtFirstBoundary_succ h (n + 1) u).2 ⟨n, v, rfl, hgoes, hu⟩, rfl⟩
  · rintro ⟨n, u, hu, rfl⟩
    obtain ⟨m, v, -, hgoes, hv⟩ := (standsAtFirstBoundary_succ h n u).1 hu
    exact ⟨v, hgoes, (hnext v hgoes _).2 ⟨m, u, hv, rfl⟩⟩

/-- By the fuel, which covers what is left of the block: a block that has used its budget has ended. -/
theorem runToBlockEnd_exits {fuel : Nat} {moves : List (List LiveMove)} {s : State} (hinv : MachineInv s)
    (hfuel : s.isBlockBoundary = true ∨ s.cfg.blockBudget ≤ s.blockCount + fuel) :
    ExitsAtFirstBoundary 0 moves s (runToBlockEnd fuel moves s) := by
  induction fuel generalizing moves s with
  | zero =>
    have hb : s.isBlockBoundary = true :=
      hfuel.elim id fun hused =>
        isBlockBoundary_of_blockBoundary (hinv.blockWithinBudget.resolve_right (Nat.not_lt.2 hused))
    exact exitsAtFirstBoundary_here hb
  | succ k ih =>
    rw [runToBlockEnd]
    split
    · next hb => exact exitsAtFirstBoundary_here hb
    · next hb =>
      have hb : s.isBlockBoundary = false := by simpa using hb
      refine exitsAtFirstBoundary_succ (.inr hb) fun v hgoes => ih (goesOn_machineInv hinv hgoes) (.inr ?_)
      rw [goesOn_cfg hgoes, goesOn_blockCount hgoes hb]
      have := hfuel.resolve_left (by simp [hb])
      omega

theorem runUntil_exits {budget : Nat} {moves : List (List LiveMove)} {s : State} (hinv : MachineInv s) :
    ExitsAtFirstBoundary budget moves s (runUntil budget moves s) := by
  induction budget generalizing moves s with
  | zero => exact runToBlockEnd_exits hinv (.inr (by omega))
  | succ k ih => exact exitsAtFirstBoundary_succ (.inl (by omega)) fun v hgoes => ih (goesOn_machineInv hinv hgoes)

/-! ### How far the first block boundary is -/

theorem stepsOfRun_machineInv {n : Nat} {moves : List (List LiveMove)} {s u : State} (hinv : MachineInv s)
    (h : stepsOfRun n moves s = some u) : MachineInv u := by
  induction n generalizing moves s with
  | zero => exact Option.some.inj h ▸ hinv
  | succ k ih =>
    obtain ⟨v, hgoes, hv⟩ := (stepsOfRun_succ_goesOn k moves s u).1 h
    exact ih (goesOn_machineInv hinv hgoes) hv

/-- Inside a block, what is left of its budget bounds the steps to the next boundary. -/
theorem standsAtFirstBoundary_le_block {n : Nat} {moves : List (List LiveMove)} {s u : State} (hinv : MachineInv s)
    (h : StandsAtFirstBoundary 0 moves s n u) : n = 0 ∨ s.blockCount + n ≤ s.cfg.blockBudget := by
  induction n generalizing moves s with
  | zero => exact .inl rfl
  | succ m ih =>
    right
    have hb : s.isBlockBoundary = false := h.first 0 s le_rfl (by omega) rfl
    obtain ⟨m', v, hm, hgoes, hv⟩ := (standsAtFirstBoundary_succ (.inr hb) (m + 1) u).1 h
    obtain rfl : m = m' := by omega
    have hcount : s.blockCount < s.cfg.blockBudget :=
      hinv.blockWithinBudget.resolve_left fun hends => by simp [isBlockBoundary_of_blockBoundary hends] at hb
    have hrest := ih (goesOn_machineInv hinv hgoes) hv
    rw [goesOn_cfg hgoes, goesOn_blockCount hgoes hb] at hrest
    omega

theorem standsAtFirstBoundary_le {budget n : Nat} {moves : List (List LiveMove)} {s u : State} (hinv : MachineInv s)
    (h : StandsAtFirstBoundary budget moves s n u) : n ≤ budget + s.cfg.blockBudget := by
  induction budget generalizing moves s n with
  | zero =>
    have := standsAtFirstBoundary_le_block hinv h
    omega
  | succ k ih =>
    obtain ⟨m, v, rfl, hgoes, hv⟩ := (standsAtFirstBoundary_succ (.inl k.succ_pos) n u).1 h
    have := ih (goesOn_machineInv hinv hgoes) hv
    rw [goesOn_cfg hgoes] at this
    omega

/-- Settles O57: both directions about the budget are `runUntil_exits`. -/
theorem runsReturnAtABlockBoundary : Obligations.RunsReturnAtABlockBoundary := by
  refine ⟨fun s h => isBlockBoundary_of_stopped h, fun s t h => step_run h, fun budget moves s why t h => ?_,
    fun s why t h => ?_, fun budget moves s t hinv h => ?_, fun budget moves s n u hinv h => ?_⟩
  · have hrun := comesBackStopped_runUntil budget moves s why t h
    exact ⟨hrun, stopped_of_returned hrun⟩
  · have hrun := comesBackStopped_afterStep comesBackStopped_exitAtBudget why t h
    exact ⟨hrun, stopped_of_returned hrun⟩
  · obtain ⟨n, u, hu, ht⟩ := (runUntil_exits hinv t).1 h
    exact ⟨n, u, standsAtFirstBoundary_le hinv hu, hu, stepsOfRun_machineInv hinv hu.reached, ht⟩
  · exact (runUntil_exits hinv _).2 ⟨n, u, h, rfl⟩

end Sys2Proof.Machine
end
